-- ==== Sys2Proof/Word.lean ====
section
/-! DEFINITION. The word types: a byte (R9), the 32-bit command and status words (R70, R75) and the 16-bit fields of
the wire format (R57). -/

namespace Sys2Proof

/-- A byte, an unsigned value 0 to 255 (R9). -/
abbrev Byte := BitVec 8

/-- A 16-bit field: EtherType, discriminator, tag control field, `vid` operand (R33, R57). -/
abbrev Half := BitVec 16

/-- A 32-bit word: `CMD` (R70), `RSP` (R75) or a CRC-32 value (R120). -/
abbrev Word := BitVec 32

end Sys2Proof
end

