-- ==== Sys2Proof/Config.lean ====
section
/-! DEFINITION. The implementation parameters of 00_scope R8. `ADDR_BYTES`, `PCP_BITS`, `DEI_BITS`, `VID_BITS`,
`VID_IN_BITS` and `ETHERTYPE_BYTES` are fixed by the record types of Syntax.lean. The two OPEN parameters are fields
of State; this file holds only the values `State.reset` gives them. -/

namespace Sys2Proof.Config

/-- `MIN_PAYLOAD` (R8): the floor on payload and padding of an encoded frame. -/
@[simp] def minPayload : Nat := 46

/-- `MIN_DECODE_LEN` (R8, R170). -/
@[simp] def minDecodeLen : Nat := 14

/-- `MIN_DECODE_FCS_LEN` and `FCS_BYTES` (R8, R125). -/
@[simp] def fcsBytes : Nat := 4

/-- `VID_MAX` (R8, R100, D9): the largest identifier encode accepts. -/
@[simp] def vidMax : Nat := 4095

/-- DESIGN CHOICE (entry 1, unsafe): `MAX_FRAME_BYTES` of the machine `State.reset` describes. The spec leaves the
parameter open (R8, D14); no statement rests on this value. -/
def resetMaxFrameBytes : Nat := 65536

/-- DESIGN CHOICE (entry 2, unsafe): `INSTANCES` of the machine `State.reset` describes, the least the spec allows
(R8, D21); no statement rests on this value. -/
def resetInstances : Nat := 1

end Sys2Proof.Config
end

