-- ==== Sys2Proof/Syntax.lean ====
section
/-! DEFINITION. The unit's operations (one constructor per row of spec/opcode_table.json), the operand and result
records of 10_state section 2, and a request (30_encoding R70, R74). -/

namespace Sys2Proof

/-- The six operations (R71). The command word has no operand field: the operand record comes with the request. -/
inductive Instr where
  | tagPack         -- TAG_PACK, R102
  | tagUnpack       -- TAG_UNPACK, R103
  | frameEncode     -- FRAME_ENCODE, R146
  | frameEncodeFcs  -- FRAME_ENCODE_FCS, R147
  | frameDecode     -- FRAME_DECODE, R177
  | frameDecodeFcs  -- FRAME_DECODE_FCS, R178
  deriving DecidableEq, Repr

/-- A hardware address: exactly 6 bytes by type (R34), `b0` at the lowest offset (R54). -/
structure Addr where
  b0 : Byte
  b1 : Byte
  b2 : Byte
  b3 : Byte
  b4 : Byte
  b5 : Byte
  deriving DecidableEq, Repr

/-- A VLAN tag record (R33). `vid` has 16 bits so that an identifier above 4095 can be presented (D7). -/
structure TagRecord where
  /-- priority -/
  pcp : BitVec 3
  /-- drop-eligible indicator -/
  dei : BitVec 1
  /-- VLAN identifier -/
  vid : Half
  deriving DecidableEq, Repr

/-- A frame record (R34). Tag presence is two independent options, so the invalid outer-only record can be
presented (R35). -/
structure FrameRecord where
  dst : Addr
  src : Addr
  /-- outer, service-provider tag -/
  outer : Option TagRecord
  /-- inner, customer tag -/
  inner : Option TagRecord
  etherType : Half
  payload : List Byte
  deriving DecidableEq, Repr

/-- The operand of a request (R74). `absent` is the operand of a request that presents none: a reserved command word
has no operand type. -/
inductive Operand where
  | absent
  | tag (t : TagRecord)
  | bytes (b : List Byte)
  | frame (F : FrameRecord)
  deriving DecidableEq, Repr

/-- A request: a 32-bit command word and an operand record (R70). -/
structure Request where
  cmd : Word
  operand : Operand
  deriving DecidableEq, Repr

end Sys2Proof
end

