-- ==== Sys2Proof/Machine/State.lean ====
section
/-! DEFINITION. The state of the unit as plain data: its channels, each with the request in flight and the responses
returned so far, the host's turns still to come, and the unit's open parameters; the error kinds, results and
responses; the reasons a step can stop; and the state after reset. -/

namespace Sys2Proof.Machine

open Sys2Proof

/-- The five error kinds (R200). An error is the status of a response, never a stop of the machine (R206). -/
inductive Err where
  | truncatedFrame       -- R201
  | invalidVlanStacking  -- R202
  | invalidChecksum      -- R203
  | invalidVlanId        -- R204
  | illegalOperation     -- R205
  deriving DecidableEq, Repr

/-- The result of an operation that succeeded (R74): a byte buffer, a tag record or a frame record. -/
inductive Result where
  | bytes (b : List Byte)
  | tag (t : TagRecord)
  | frame (F : FrameRecord)
  deriving DecidableEq, Repr

/-- A response: the status word `RSP` and, only when the status is OK, a result (R75). -/
structure Response where
  rsp : Word
  result : Option Result
  deriving DecidableEq, Repr

/-- One channel of the unit (R215, R216). -/
structure Channel where
  /-- the operation in flight and its operands as captured at issue (R42, R59), none when the channel is idle -/
  inFlight : Option Request
  /-- the responses returned so far, oldest first (R30); no operation reads them (R39) -/
  responses : List Response
  deriving DecidableEq, Repr

/-- What the outside world lets happen next. The host decides the order of operations (R32, R216); the channels and
the host interleave (R61), and this list says how (DESIGN CHOICE, entry 7). -/
inductive Turn where
  /-- the host issues a request on channel `k` -/
  | issue (k : Nat) (req : Request)
  /-- channel `k` performs the request it has in flight -/
  | run (k : Nat)
  /-- the host asserts reset (R240, R241) -/
  | reset
  deriving DecidableEq, Repr

/-- The state of the machine. The spec gives the unit no register, program counter, flag or memory (R30 to R32, R39 to
R42, R50). -/
structure State where
  /-- `MAX_FRAME_BYTES`, an open parameter, fixed for the machine (R8, R60; entry 1) -/
  maxFrameBytes : Nat
  /-- the `INSTANCES` independent channels, at least one (R8, R215; entry 2) -/
  channels : List Channel
  /-- the model's own: the turns still to come (entry 7) -/
  turns : List Turn
  /-- the model's own: the channel whose request the current step performs (entry 10) -/
  active : Nat
  deriving DecidableEq, Repr

/-- Reasons the machine stops with a fault: there are none. Every error of the unit is the status of a response, after
which the channel goes on with the next request (R206, R210; entry 20). -/
inductive Fault where
  deriving DecidableEq, Repr

/-- Reasons a step has no next state. All but the first are requests outside the unit's interface, for which the spec
defines no response; all are safe (no claim about a response can be proved where there is none). A refusal is the outcome of the
step, so it leaves the other channels too without a next state (DESIGN CHOICE, entry 25). -/
inductive Refusal where
  /-- Raised by an arm of `exec` for an instruction the model gives no meaning; no arm does. Safe. -/
  | notModelled (mnemonic : String)
  /-- Raised by every operation when the request's operand record is not of the operation's kind (R70, R74; entry 4).
  Safe. -/
  | operandKind
  /-- Raised by TAG_UNPACK when its operand is not exactly 2 bytes (R74, D29). Safe. -/
  | unpackLength
  /-- Raised by the operations that take a buffer or a frame record when the buffer or the payload is longer than
  `MAX_FRAME_BYTES` (R60, D14; entry 3). Safe. -/
  | inputTooLong
  /-- Raised by every operation that succeeds with a result longer than `MAX_FRAME_BYTES` (R60, D14; entry 3). Safe. -/
  | resultTooLong
  /-- Raised by an operation when the active channel has no request in flight; `step` never gets there. Safe. -/
  | noRequest
  /-- Raised by `step` when a turn names a channel the machine does not have (R8; entry 12). Safe. -/
  | noSuchChannel
  deriving DecidableEq, Repr

/-- A channel with no request in flight that has returned no response (R240). -/
def Channel.idle : Channel := { inFlight := none, responses := [] }

/-- The machine right after reset, for a unit with `instances` channels and capacity `maxBytes` (R8, R240): every
channel is idle. -/
def State.resetWith (maxBytes instances : Nat) : State :=
  { maxFrameBytes := maxBytes, channels := List.replicate instances Channel.idle, turns := [], active := 0 }

/-- The machine right after reset, at the parameters of Config (entries 1, 2, 9, 10, 14). -/
def State.reset : State := State.resetWith Config.resetMaxFrameBytes Config.resetInstances

end Sys2Proof.Machine
end

