-- ==== Sys2Proof/Machine/Bytes.lean ====
section
/-! DEFINITION. Byte order and access to byte buffers: the primitives of 00_scope R9 and R10. Offsets are natural
numbers counted from the first byte of the buffer (R50); multi-byte integers are big-endian (R53). -/

namespace Sys2Proof.Machine

open Sys2Proof

/-- The unsigned big-endian value of a byte sequence, byte 0 most significant (R10, R53). -/
def beValue : List Byte → Nat
  | [] => 0
  | b :: bs => b.toNat * 256 ^ bs.length + beValue bs

/-- The `n`-byte big-endian representation of `v` (R10, R53). -/
def beBytes : Nat → Nat → List Byte
  | 0, _ => []
  | n + 1, v => BitVec.ofNat 8 (v / 256 ^ n) :: beBytes n v

/-- `be16(v)` (R10). -/
def be16 (v : Half) : List Byte := beBytes 2 v.toNat

/-- `be32(v)` (R10). -/
def be32 (v : Word) : List Byte := beBytes 4 v.toNat

/-- `zeros(n)` (R9). -/
def zeros (n : Nat) : List Byte := List.replicate n 0

/-- `MemReadBytes(buf, off, n)` (R10): the bytes at `off` to `off + n - 1`; a read whose last byte is past the end of
the buffer raises TruncatedFrame (R51). -/
def memReadBytes (buf : List Byte) (off n : Nat) : Except Err (List Byte) :=
  if off + n > buf.length then .error .truncatedFrame else .ok ((buf.drop off).take n)

/-- `MemRead(buf, off, n)` (R10): the big-endian value of the bytes `MemReadBytes` gives, under the same check. -/
def memRead (buf : List Byte) (off n : Nat) : Except Err Nat :=
  (memReadBytes buf off n).map beValue

/-- `out[off .. off + len(b)) <- b`: the bytes of `out` at those offsets are replaced. The encoder writes only inside
the length of `out` (R52; entry 16). -/
def writeBytes (out : List Byte) (off : Nat) (b : List Byte) : List Byte :=
  out.take off ++ b ++ out.drop (off + b.length)

/-- `MemWrite(out, off, n, v)` (R10). -/
def memWrite (out : List Byte) (off n v : Nat) : List Byte :=
  writeBytes out off (beBytes n v)

/-- The 6 bytes of a hardware address, in buffer order (R54). -/
def addrBytes (a : Addr) : List Byte := [a.b0, a.b1, a.b2, a.b3, a.b4, a.b5]

/-- The hardware address whose bytes, in order, are the 6 bytes `b` (R54, R171). It is given the 6 bytes
`memReadBytes` answers with; on another length the missing bytes would read 0 (not reached, entry 16). -/
def addrOfBytes (b : List Byte) : Addr :=
  { b0 := b.getD 0 0, b1 := b.getD 1 0, b2 := b.getD 2 0, b3 := b.getD 3 0, b4 := b.getD 4 0, b5 := b.getD 5 0 }

end Sys2Proof.Machine
end

