-- ==== Sys2Proof/Machine/Crc.lean ====
section
/-! DEFINITION. The CRC-32 frame check sequence (41_crc32): CRC32, AppendFCS, VerifyFCS. The CRC's parameters are the
spec's supplied knowledge (PRESUMED by the spec itself: R120, R121, D15, G1; entry 15). -/

namespace Sys2Proof.Machine

open Sys2Proof

/-- The bit-reversed generator polynomial (R120, R121). -/
def crcPoly : Word := 0xEDB88320

/-- The initial value and the final XOR (R120, R121). -/
def crcMask : Word := 0xFFFFFFFF

/-- One step of the bit loop of R120. -/
def crcShift (c : Word) : Word :=
  if c.getLsbD 0 then (c >>> 1) ^^^ crcPoly else c >>> 1

/-- `n` steps of the bit loop of R120. -/
def crcShifts : Nat → Word → Word
  | 0, c => c
  | n + 1, c => crcShifts n (crcShift c)

/-- One byte of R120: XOR it into the low bits, then 8 steps. -/
def crcByte (c : Word) (b : Byte) : Word := crcShifts 8 (c ^^^ b.setWidth 32)

/-- `CRC32(b)` (R120), bytes in buffer order. -/
def crc32 (b : List Byte) : Word := b.foldl crcByte crcMask ^^^ crcMask

/-- `AppendFCS(b)` (R123): the CRC-32 of all the bytes, big-endian (R84, R128), after them. -/
def appendFCS (b : List Byte) : List Byte := b ++ be32 (crc32 b)

/-- `VerifyFCS(buf)` (R125): check and strip the last 4 bytes. -/
def verifyFCS (buf : List Byte) : Except Err (List Byte) :=
  if buf.length < Config.fcsBytes then .error .truncatedFrame
  else
    let body := buf.take (buf.length - Config.fcsBytes)
    do
      let rx ← memRead buf (buf.length - Config.fcsBytes) Config.fcsBytes
      if (crc32 body).toNat ≠ rx then .error .invalidChecksum else .ok body

end Sys2Proof.Machine
end

