-- ==== Sys2Proof/Machine/Flags.lean ====
section
/-! DEFINITION. The unit has no flags or condition codes (R39). Its only outcome indication is the status code of a
response (R76), computed here: the one place where the numeric codes and the layout of `RSP` stand. -/

namespace Sys2Proof.Machine

open Sys2Proof

/-- The status code `ST` of OK (R76). -/
def okCode : BitVec 4 := 0x0

/-- The status code `ST` of each error kind (R76). -/
def errCode (e : Err) : BitVec 4 :=
  match e with
  | .truncatedFrame => 0x1
  | .invalidVlanStacking => 0x2
  | .invalidChecksum => 0x3
  | .invalidVlanId => 0x4
  | .illegalOperation => 0x5

/-- The status word `RSP`: `ST` in bits 3:0, bits 31:4 zero (R75). -/
def statusWord (st : BitVec 4) : Word := (0 : BitVec 28) ++ st

/-- `RSP[3:0]`, the status code of a status word (R75). -/
def statusCode (rsp : Word) : BitVec 4 := rsp.extractLsb' 0 4

/-- `RSP[31:4]`, always zero (R75). -/
def statusRsv (rsp : Word) : BitVec 28 := rsp.extractLsb' 4 28

/-- The response of an operation that succeeded: status OK and the result (R37, R75). -/
def okResponse (r : Result) : Response := { rsp := statusWord okCode, result := some r }

/-- The response of an error: its status code and nothing else (R206, R208). -/
def errResponse (e : Err) : Response := { rsp := statusWord (errCode e), result := none }

end Sys2Proof.Machine
end

