-- ==== Sys2Proof/Machine/Ops.lean ====
section
/-! DEFINITION. The operations every meaning shares: the request in flight on the active channel, delivering a
response, raising an error, returning a result. -/

namespace Sys2Proof.Machine

open Sys2Proof

/-- The request in flight on channel `k` (R42, R59); none when the channel is idle or does not exist. -/
def State.inFlightOn (s : State) (k : Nat) : Option Request :=
  (s.channels[k]?).bind Channel.inFlight

/-- The request the current step performs: the one in flight on the active channel. -/
def State.request (s : State) : Option Request := s.inFlightOn s.active

/-- A channel that has returned `r`: its operation is over and it is ready for the next request (R216). -/
def Channel.answer (r : Response) (c : Channel) : Channel :=
  { inFlight := none, responses := c.responses ++ [r] }

/-- The active channel returns the response `r`; nothing else changes (R206, R215). -/
def State.deliver (s : State) (r : Response) : State :=
  { s with channels := s.channels.modify s.active (Channel.answer r) }

/-- `raise E` (R11, R206 to R208, R210), the ONE way an operation takes an error: it ends at once and the response
carries the status of `E` and no result. The unit has no trap entry and no return from one (R210): control goes back to
the host with the response. -/
def raise (e : Err) (s : State) : Host.Outcome State Fault Refusal :=
  .next (s.deliver (errResponse e))

/-- How many bytes of byte buffer or payload a result holds (R34, R36, R60; entry 3). -/
def resultBytes (r : Result) : Nat :=
  match r with
  | .bytes b => b.length
  | .tag _ => 0
  | .frame F => F.payload.length

/-- `return r` (R11): the response carries status OK and the result. A result longer than `MAX_FRAME_BYTES` is outside
the interface and refused (R60). -/
def returnResult (r : Result) (s : State) : Host.Outcome State Fault Refusal :=
  if resultBytes r ≤ s.maxFrameBytes then .next (s.deliver (okResponse r)) else .refused .resultTooLong

/-- How an operation ends: it raises or it returns (R11). -/
def finish (r : Except Err Result) (s : State) : Host.Outcome State Fault Refusal :=
  match r with
  | .error e => raise e s
  | .ok r => returnResult r s

/-- An operation as one atomic step (R7, R58): take the operand, compute the outcome from it alone (R30), end. -/
def perform {α : Type} (operand : Except Refusal α) (op : α → Except Err Result) (s : State) :
    Host.Outcome State Fault Refusal :=
  match operand with
  | .error r => .refused r
  | .ok a => finish (op a) s

end Sys2Proof.Machine
end

