-- ==== Sys2Proof/Machine/Operands.lean ====
section
/-! DEFINITION. The operand forms of R74: each operation takes the operand of the request in flight by one of these,
which refuse an operand outside the unit's interface (R60, R74; entries 3 and 4). -/

namespace Sys2Proof.Machine

open Sys2Proof

/-- The operand record of the request in flight on the active channel. -/
def operand (s : State) : Except Refusal Operand :=
  match s.request with
  | none => .error .noRequest
  | some req => .ok req.operand

/-- A tag record operand (R33): TAG_PACK. -/
def asTag (o : Operand) : Except Refusal TagRecord :=
  match o with
  | .tag t => .ok t
  | .absent | .bytes _ | .frame _ => .error .operandKind

/-- A byte buffer operand (R36), at most `MAX_FRAME_BYTES` long (R60): FRAME_DECODE, FRAME_DECODE_FCS. -/
def asBuffer (maxBytes : Nat) (o : Operand) : Except Refusal (List Byte) :=
  match o with
  | .bytes b => if b.length ≤ maxBytes then .ok b else .error .inputTooLong
  | .absent | .tag _ | .frame _ => .error .operandKind

/-- A byte sequence operand of exactly 2 bytes (R74, D29): TAG_UNPACK. -/
def asTwoBytes (maxBytes : Nat) (o : Operand) : Except Refusal (List Byte) :=
  match asBuffer maxBytes o with
  | .ok b => if b.length = 2 then .ok b else .error .unpackLength
  | .error r => .error r

/-- A frame record operand (R34), its payload at most `MAX_FRAME_BYTES` long (R60): FRAME_ENCODE, FRAME_ENCODE_FCS. -/
def asFrame (maxBytes : Nat) (o : Operand) : Except Refusal FrameRecord :=
  match o with
  | .frame F => if F.payload.length ≤ maxBytes then .ok F else .error .inputTooLong
  | .absent | .tag _ | .bytes _ => .error .operandKind

/-- The active request's operand as a tag record. -/
def tagOperand (s : State) : Except Refusal TagRecord := (operand s).bind asTag

/-- The active request's operand as a byte buffer. -/
def bufferOperand (s : State) : Except Refusal (List Byte) := (operand s).bind (asBuffer s.maxFrameBytes)

/-- The active request's operand as exactly 2 bytes. -/
def twoBytesOperand (s : State) : Except Refusal (List Byte) := (operand s).bind (asTwoBytes s.maxFrameBytes)

/-- The active request's operand as a frame record. -/
def frameOperand (s : State) : Except Refusal FrameRecord := (operand s).bind (asFrame s.maxFrameBytes)

end Sys2Proof.Machine
end

