-- ==== Sys2Proof/Machine/TagCodec.lean ====
section
/-! DEFINITION. The VLAN tag codec (40_vlan_tag): the shared functions PackTCI and UnpackTCI, TAG_PACK, TAG_UNPACK. -/

namespace Sys2Proof.Machine

open Sys2Proof

/-- `PackTCI(t)` (R100): 2 bytes, big-endian, of `pcp * 2^13 + dei * 2^12 + vid` (R77); an identifier above `VID_MAX`
raises InvalidVlanId and is never clamped (C1, C4, D9). -/
def packTCI (t : TagRecord) : Except Err (List Byte) :=
  if t.vid.toNat > Config.vidMax then .error .invalidVlanId
  else .ok (be16 (BitVec.ofNat 16 (t.pcp.toNat * 2 ^ 13 + t.dei.toNat * 2 ^ 12 + t.vid.toNat)))

/-- `UnpackTCI(w)` (R101) of the 2 bytes `w`: `pcp = tci[15:13]`, `dei = tci[12]`, `vid = zext_16(tci[11:0])`. -/
def unpackTCI (w : List Byte) : TagRecord :=
  let tci : Half := BitVec.ofNat 16 (beValue w)
  { pcp := tci.extractLsb' 13 3, dei := tci.extractLsb' 12 1, vid := (tci.extractLsb' 0 12).setWidth 16 }

/-- TAG_PACK (R102): `return PackTCI(t)`. -/
def execTagPack (s : State) : Host.Outcome State Fault Refusal :=
  perform (tagOperand s) (fun t => (packTCI t).map .bytes) s

/-- TAG_UNPACK (R103): `return UnpackTCI(w)`; every 2-byte input succeeds. -/
def execTagUnpack (s : State) : Host.Outcome State Fault Refusal :=
  perform (twoBytesOperand s) (fun w => .ok (.tag (unpackTCI w))) s

end Sys2Proof.Machine
end

