-- ==== Sys2Proof/WellFormed.lean ====
section
/-! DEFINITION. When an operand record belongs to an operation and lies inside the unit's interface: the kind the
operation takes (R74), exactly 2 bytes for TAG_UNPACK (R74, D29), and no input, payload or result longer than
`MAX_FRAME_BYTES` (R60). -/

namespace Sys2Proof

/-- The number of tag layers a record presents: 0, 1 or 2 (R85, R142). -/
def FrameRecord.tagCount (F : FrameRecord) : Nat :=
  (if F.outer.isSome then 1 else 0) + (if F.inner.isSome then 1 else 0)

/-- `H(n) = 14 + 4n` (R85). -/
def FrameRecord.headerLength (F : FrameRecord) : Nat := 14 + 4 * F.tagCount

/-- The encoded length `H(n) + max(L, 46)` (R85, R142). -/
def FrameRecord.encodedLength (F : FrameRecord) : Nat :=
  F.headerLength + max F.payload.length Config.minPayload

/-- The operand record is one the operation may be given on a unit whose `MAX_FRAME_BYTES` is `maxBytes`: of the
operation's own kind and length (R74), with every buffer of the request and of a successful result within the
capacity (R36, R60). -/
def Instr.wfOperand (i : Instr) (maxBytes : Nat) (o : Operand) : Bool :=
  match i with
  | .tagPack => match o with
    | .tag _ => decide (2 ≤ maxBytes)
    | .absent | .bytes _ | .frame _ => false
  | .tagUnpack => match o with
    | .bytes b => decide (b.length = 2) && decide (b.length ≤ maxBytes)
    | .absent | .tag _ | .frame _ => false
  | .frameEncode => match o with
    | .frame F => decide (F.payload.length ≤ maxBytes) && decide (F.encodedLength ≤ maxBytes)
    | .absent | .tag _ | .bytes _ => false
  | .frameEncodeFcs => match o with
    | .frame F => decide (F.payload.length ≤ maxBytes) && decide (F.encodedLength + Config.fcsBytes ≤ maxBytes)
    | .absent | .tag _ | .bytes _ => false
  | .frameDecode => match o with
    | .bytes b => decide (b.length ≤ maxBytes)
    | .absent | .tag _ | .frame _ => false
  | .frameDecodeFcs => match o with
    | .bytes b => decide (b.length ≤ maxBytes)
    | .absent | .tag _ | .frame _ => false

end Sys2Proof
end

