-- ==== Sys2Proof/Machine/FrameEncode.lean ====
section
/-! DEFINITION. Frame encode (42_frame_encode): EncodeFrame as the pseudocode of R146 writes it, EncodeFrameFCS,
FRAME_ENCODE, FRAME_ENCODE_FCS. -/

namespace Sys2Proof.Machine

open Sys2Proof

/-- The discriminator of an outer, service tag (R79). -/
def serviceTag : Half := 0x88A8

/-- The discriminator of an inner or only, standard tag (R79). -/
def standardTag : Half := 0x8100

/-- `PackTCI` of a tag that may be absent (R141); an absent tag gives no bytes. -/
def packPresent (t : Option TagRecord) : Except Err (List Byte) :=
  match t with
  | none => .ok []
  | some t => packTCI t

/-- An output buffer being written and the offset of the next field (R146). -/
structure Writer where
  out : List Byte
  off : Nat
  deriving DecidableEq, Repr

/-- Step 4 for one tag layer (R144): when the tag is present, its discriminator and its packed control field. -/
def putTag (present : Bool) (discriminator : Half) (tci : List Byte) (w : Writer) : Writer :=
  if present then
    { out := writeBytes (memWrite w.out w.off 2 discriminator.toNat) (w.off + 2) tci, off := w.off + 4 }
  else w

/-- Steps 2 to 5 (R142 to R145): the buffer of length `N`, zero before the first write, so that the bytes after a
short payload are the padding. `otci` and `itci` are the packed control fields of the present tags. -/
def fillFrame (F : FrameRecord) (otci itci : List Byte) : List Byte :=
  let N := 12 + 4 * F.tagCount + 2 + max F.payload.length Config.minPayload
  let w : Writer := { out := writeBytes (writeBytes (zeros N) 0 (addrBytes F.dst)) 6 (addrBytes F.src), off := 12 }
  let w := putTag F.outer.isSome serviceTag otci w
  let w := putTag F.inner.isSome standardTag itci w
  writeBytes (memWrite w.out w.off 2 F.etherType.toNat) (w.off + 2) F.payload

/-- `EncodeFrame(F)` (R146): the stacking check (R140), then both identifier checks, outer first (R141), all before any
byte is produced. -/
def encodeFrame (F : FrameRecord) : Except Err (List Byte) :=
  if F.outer.isSome && F.inner.isNone then .error .invalidVlanStacking
  else do
    let otci ← packPresent F.outer
    let itci ← packPresent F.inner
    .ok (fillFrame F otci itci)

/-- `EncodeFrameFCS(F)` (R147): the errors of EncodeFrame propagate unchanged. -/
def encodeFrameFCS (F : FrameRecord) : Except Err (List Byte) :=
  (encodeFrame F).map appendFCS

/-- FRAME_ENCODE (R146). -/
def execFrameEncode (s : State) : Host.Outcome State Fault Refusal :=
  perform (frameOperand s) (fun F => (encodeFrame F).map .bytes) s

/-- FRAME_ENCODE_FCS (R147). -/
def execFrameEncodeFcs (s : State) : Host.Outcome State Fault Refusal :=
  perform (frameOperand s) (fun F => (encodeFrameFCS F).map .bytes) s

end Sys2Proof.Machine
end

