-- ==== Sys2Proof/Machine/FrameDecode.lean ====
section
/-! DEFINITION. Frame decode (43_frame_decode): DecodeFrame as the pseudocode of R177 writes it, DecodeFrameFCS,
FRAME_DECODE, FRAME_DECODE_FCS. Every read goes through MemRead or MemReadBytes, so the order of the reads decides
which error is reported (D11). -/

namespace Sys2Proof.Machine

open Sys2Proof

/-- The fields between the addresses and the payload, and the header length (R173 to R175). -/
structure Header where
  outer : Option TagRecord
  inner : Option TagRecord
  etherType : Half
  hdr : Nat
  deriving DecidableEq, Repr

/-- The 16-bit big-endian field at `off` (R53). -/
def readHalf (buf : List Byte) (off : Nat) : Except Err Half :=
  (memRead buf off 2).map (BitVec.ofNat 16)

/-- The tag control field at `off`, unpacked (R101). -/
def readTag (buf : List Byte) (off : Nat) : Except Err TagRecord :=
  (memReadBytes buf off 2).map unpackTCI

/-- Double-tag path (R173). -/
def readDouble (buf : List Byte) : Except Err Header := do
  let outer ← readTag buf 14
  let f16 ← readHalf buf 16
  if f16 ≠ standardTag then .error .invalidVlanStacking
  else do
    let inner ← readTag buf 18
    let et ← readHalf buf 20
    .ok { outer := some outer, inner := some inner, etherType := et, hdr := 22 }

/-- Single-tag path (R174): the one tag is the inner tag. -/
def readSingle (buf : List Byte) : Except Err Header := do
  let inner ← readTag buf 14
  let et ← readHalf buf 16
  .ok { outer := none, inner := some inner, etherType := et, hdr := 18 }

/-- Step 3, dispatch on the field at offset 12 alone (R172, R175). -/
def readHeader (buf : List Byte) (f12 : Half) : Except Err Header :=
  if f12 = serviceTag then readDouble buf
  else if f12 = standardTag then readSingle buf
  else .ok { outer := none, inner := none, etherType := f12, hdr := 14 }

/-- `DecodeFrame(buf)` (R177). Padding is not removed (R176). -/
def decodeFrame (buf : List Byte) : Except Err FrameRecord :=
  if buf.length < Config.minDecodeLen then .error .truncatedFrame
  else do
    let dst ← memReadBytes buf 0 6
    let src ← memReadBytes buf 6 6
    let f12 ← readHalf buf 12
    let h ← readHeader buf f12
    .ok { dst := addrOfBytes dst, src := addrOfBytes src, outer := h.outer, inner := h.inner,
          etherType := h.etherType, payload := buf.drop h.hdr }

/-- `DecodeFrameFCS(buf)` (R178): verify and strip the FCS, then decode the body. -/
def decodeFrameFCS (buf : List Byte) : Except Err FrameRecord := do
  let body ← verifyFCS buf
  decodeFrame body

/-- FRAME_DECODE (R177). -/
def execFrameDecode (s : State) : Host.Outcome State Fault Refusal :=
  perform (bufferOperand s) (fun buf => (decodeFrame buf).map .frame) s

/-- FRAME_DECODE_FCS (R178). -/
def execFrameDecodeFcs (s : State) : Host.Outcome State Fault Refusal :=
  perform (bufferOperand s) (fun buf => (decodeFrameFCS buf).map .frame) s

end Sys2Proof.Machine
end

