-- ==== Sys2Proof/Machine/Dispatch.lean ====
section
/-! DEFINITION. The dispatch of an operation to its meaning: one arm per constructor of Instr (R71). -/

namespace Sys2Proof.Machine

open Sys2Proof

def exec (i : Instr) (s : State) : Host.Outcome State Fault Refusal :=
  match i with
  | .tagPack => Sys2Proof.Machine.execTagPack s
  | .tagUnpack => Sys2Proof.Machine.execTagUnpack s
  | .frameEncode => Sys2Proof.Machine.execFrameEncode s
  | .frameEncodeFcs => Sys2Proof.Machine.execFrameEncodeFcs s
  | .frameDecode => Sys2Proof.Machine.execFrameDecode s
  | .frameDecodeFcs => Sys2Proof.Machine.execFrameDecodeFcs s

end Sys2Proof.Machine
end

