-- ==== Sys2Proof/Decode.lean ====
section
/-! DEFINITION. Decoding and encoding of the command word (30_encoding R70 to R73, R89). The command word is a 32-bit
value carried by a request, not bytes of a memory, so the decoder reads the word itself (DEDUCED, entry 13). -/

namespace Sys2Proof

/-- Why a command word is not an operation. Either reason is answered with status IllegalOperation (R72, R73). -/
inductive DecodeError where
  /-- `CMD[31:4]` is not zero (R73). -/
  | reservedField
  /-- `OP` is 0x0 or 0x7 to 0xF (R72). -/
  | reservedOp
  deriving DecidableEq, Repr

/-- `OP = CMD[3:0]` (R70). -/
def cmdOp (cmd : Word) : BitVec 4 := cmd.extractLsb' 0 4

/-- `RSV = CMD[31:4]` (R70). -/
def cmdRsv (cmd : Word) : BitVec 28 := cmd.extractLsb' 4 28

/-- The operation an `OP` value selects (R71), none for a reserved one (R72). -/
def opInstr (op : BitVec 4) : Option Instr :=
  match op.toNat with
  | 1 => some .tagPack
  | 2 => some .tagUnpack
  | 3 => some .frameEncode
  | 4 => some .frameEncodeFcs
  | 5 => some .frameDecode
  | 6 => some .frameDecodeFcs
  | _ => none

/-- The command decode: one step, before any operand is read (R73, R89). -/
def decode (cmd : Word) : Except DecodeError Instr :=
  if cmdRsv cmd ≠ 0 then .error .reservedField
  else match opInstr (cmdOp cmd) with
    | some i => .ok i
    | none => .error .reservedOp

/-- The operation code of each operation (R71). -/
def opcode (i : Instr) : BitVec 4 :=
  match i with
  | .tagPack => 0x1
  | .tagUnpack => 0x2
  | .frameEncode => 0x3
  | .frameEncodeFcs => 0x4
  | .frameDecode => 0x5
  | .frameDecodeFcs => 0x6

/-- The command word of an operation: `OP` in bits 3:0, the reserved field zero (R70). -/
def encode (i : Instr) : Word := (0 : BitVec 28) ++ opcode i

/-- The instruction the decoder reads from an opcode-table word: `w` has `nbits` bits numbered as the table numbers
them, and every bit of the 32-bit command word above them is 0. No command is longer than 32 bits (R70). -/
def decodeTableWord (nbits w : Nat) : Option Instr :=
  if nbits ≤ 32 then
    match decode (BitVec.ofNat 32 (w % 2 ^ nbits)) with
    | .ok i => some i
    | .error _ => none
  else none

end Sys2Proof
end

