-- ==== Sys2Proof/Machine/Schedule.lean ====
section
/-! DEFINITION. What the next step does, read from the state: the host's turns (R32, R216), capture of a request at
issue (R59), reset (R240, R241), and the command word of the request a step performs. -/

namespace Sys2Proof.Machine

open Sys2Proof

/-- What the next step does; the list is the turns that remain after it. -/
inductive Plan where
  /-- nothing is in progress and nothing is to come -/
  | rest
  /-- the turn has no effect: the channel it lets run is idle -/
  | skip (turns : List Turn)
  /-- channel `k` captures the request -/
  | accept (k : Nat) (req : Request) (turns : List Turn)
  /-- channel `k` performs its request in flight and answers it -/
  | perform (k : Nat) (turns : List Turn)
  /-- reset is asserted -/
  | reset (turns : List Turn)
  /-- the turn names a channel the machine does not have -/
  | noSuchChannel
  deriving DecidableEq, Repr

/-- The channel that answers when the host has no more turns: the lowest-numbered one with a request in flight
(R245: a request issued is eventually answered; the order is a DESIGN CHOICE, entry 7). -/
def firstBusy (s : State) : Option Nat :=
  s.channels.findIdx? (fun c => c.inFlight.isSome)

/-- The next step. A request issued on a channel that is still busy waits: the channel's response is returned before
the next request is accepted (R216; entry 8). -/
def State.plan (s : State) : Plan :=
  match s.turns with
  | [] => match firstBusy s with
    | some k => .perform k []
    | none => .rest
  | .issue k req :: rest => match s.channels[k]? with
    | none => .noSuchChannel
    | some c => match c.inFlight with
      | none => .accept k req rest
      | some _ => .perform k (.issue k req :: rest)
  | .run k :: rest => match s.channels[k]? with
    | none => .noSuchChannel
    | some c => match c.inFlight with
      | none => .skip rest
      | some _ => .perform k rest
  | .reset :: rest => .reset rest

/-- Channel `k` captures the request at issue (R59). -/
def State.accept (s : State) (k : Nat) (req : Request) (turns : List Turn) : State :=
  { s with channels := s.channels.modify k (fun c => { c with inFlight := some req }), turns := turns }

/-- Reset is asserted (R240, R241): every channel becomes idle and a request in progress is abandoned without a
response; the responses already returned are the host's (entry 11). -/
def State.assertReset (s : State) (turns : List Turn) : State :=
  { s with channels := s.channels.map (fun c => { c with inFlight := none }), turns := turns }

/-- Channel `k` is the one whose request the step performs. -/
def State.select (s : State) (k : Nat) (turns : List Turn) : State :=
  { s with active := k, turns := turns }

/-- The command word of the request the step performs (R63, R70). -/
def fetch (s : State) : Option Word := s.request.map Request.cmd

/-- An operand the operation `i` takes and succeeds on, for `State.withFetchWord` (DESIGN CHOICE, entry 14): the tag
(0, 0, 0), 2 zero bytes, an untagged frame of zeros with an empty payload, a bare header of zeros, the same with its
FCS. -/
def sampleOperand (i : Instr) : Operand :=
  let zeroAddr : Addr := { b0 := 0, b1 := 0, b2 := 0, b3 := 0, b4 := 0, b5 := 0 }
  let zeroFrame : FrameRecord :=
    { dst := zeroAddr, src := zeroAddr, outer := none, inner := none, etherType := 0, payload := [] }
  match i with
  | .tagPack => .tag { pcp := 0, dei := 0, vid := 0 }
  | .tagUnpack => .bytes (zeros 2)
  | .frameEncode => .frame zeroFrame
  | .frameEncodeFcs => .frame zeroFrame
  | .frameDecode => .bytes (zeros 14)
  | .frameDecodeFcs => .bytes (appendFCS (zeros 14))

/-- The request a command word comes with in `State.withFetchWord`; a reserved word comes with no operand. -/
def sampleRequest (cmd : Word) : Request :=
  match decode cmd with
  | .ok i => { cmd := cmd, operand := sampleOperand i }
  | .error _ => { cmd := cmd, operand := .absent }

/-- The channels with `req` in flight on channel 0 (which every machine has, R8). -/
def placeRequest (req : Request) (cs : List Channel) : List Channel :=
  match cs with
  | [] => [{ inFlight := some req, responses := [] }]
  | c :: cs => { c with inFlight := some req } :: cs

end Sys2Proof.Machine
end

