-- ==== Sys2Proof/Machine/Step.lean ====
section
/-! DEFINITION. The step: what the plan says. A request is performed as one atomic step (R7, R58): the command decode
first (R73), then the operation. -/

namespace Sys2Proof.Machine

open Sys2Proof

/-- The active channel performs its request in flight: a reserved command word raises IllegalOperation before any
operand is read (R72, R73, R205); any other word runs its operation. -/
def runRequest (s : State) : Host.Outcome State Fault Refusal :=
  match fetch s with
  | none => .refused .noRequest
  | some cmd => match decode cmd with
    | .ok i => exec i s
    | .error _ => raise .illegalOperation s

/-- One step of the machine. DESIGN CHOICE (entry 25): R60 and R74 have a model refuse one request; here that refusal is
the outcome of the step, so the whole machine has no next state after it, and requests in flight on other channels, and
the turns to come, are not answered in that run. -/
def step (s : State) : Host.Outcome State Fault Refusal :=
  match s.plan with
  | .rest => .next s
  | .skip turns => .next { s with turns := turns }
  | .accept k req turns => .next (s.accept k req turns)
  | .perform k turns => runRequest (s.select k turns)
  | .reset turns => .next (s.assertReset turns)
  | .noSuchChannel => .refused .noSuchChannel

/-- `s` with the command word `w` where the next step takes its command: in flight on channel 0, with an operand of the
word's operation, and channel 0's turn next (R63; entry 14). Bits of the command word above `nbits` are 0. -/
def State.withFetchWord (s : State) (nbits w : Nat) : State :=
  { s with
    channels := placeRequest (sampleRequest (BitVec.ofNat 32 (w % 2 ^ nbits))) s.channels
    turns := .run 0 :: s.turns }

end Sys2Proof.Machine
end

