-- ==== Sys2Proof/Safety.lean ====
section
/-! DEFINITION. The terms the claims use: what the active request presents, requests inside the unit's interface, legal
responses and the invariant, the wire layouts as the spec's tables give them, the CRC in the normal form of its
polynomial, and one channel seen alone. Nothing here is used by the machine. -/

namespace Sys2Proof.Safety

open Sys2Proof Sys2Proof.Machine

/-! ### Requests -/

/-- The request the step performs (on the active channel) has the operand `o`. -/
abbrev Presents (s : State) (o : Operand) : Prop := s.request.map Request.operand = some o

/-- The request lies inside the unit's interface (R60, R74): its operand belongs to its operation and fits. A reserved
command word reads no operand (R72), so every operand will do. -/
def withinInterface (maxBytes : Nat) (req : Request) : Bool :=
  match decode req.cmd with
  | .ok i => i.wfOperand maxBytes req.operand
  | .error _ => true

/-- How many channels have a request in flight. -/
def busyCount (s : State) : Nat := s.channels.countP (fun c => c.inFlight.isSome)

/-- `n` steps of the machine, as the host's interface runs it. -/
abbrev runSteps (n : Nat) (s : State) : Host.Outcome State Fault Refusal := Host.Core.run core n s

/-! ### Frame records -/

/-- Not the outer-only record, which double tagging forbids (R35). -/
def wellStacked (F : FrameRecord) : Bool := !(F.outer.isSome && F.inner.isNone)

/-- The identifier fits the 12 bits of the wire (R33). -/
def vidInRange (t : TagRecord) : Bool := decide (t.vid.toNat ≤ 4095)

/-- Every present tag's identifier fits (R141). -/
def vidsInRange (F : FrameRecord) : Bool := F.outer.all vidInRange && F.inner.all vidInRange

/-- A frame record that FRAME_ENCODE accepts (R181). -/
def accepted (F : FrameRecord) : Bool := wellStacked F && vidsInRange F

/-- `F` with its payload padded with zeros to 46 bytes (R145, R181). -/
def padded (F : FrameRecord) : FrameRecord := { F with payload := F.payload ++ zeros (46 - F.payload.length) }

/-! ### Wire layouts, by the spec's tables -/

/-- The tag control field as 2 bytes, bit by bit (R77, R78). -/
def tciBytes (t : TagRecord) : List Byte :=
  [t.pcp ++ t.dei ++ t.vid.extractLsb' 8 4, t.vid.extractLsb' 0 8]

/-- A 16-bit field as 2 bytes, the high byte first (R53, R55). -/
def halfBytes (v : Half) : List Byte := [v.extractLsb' 8 8, v.extractLsb' 0 8]

/-- A 32-bit field as 4 bytes, the most significant first (R53, R84). -/
def wordBytes (v : Word) : List Byte :=
  [v.extractLsb' 24 8, v.extractLsb' 16 8, v.extractLsb' 8 8, v.extractLsb' 0 8]

/-- One tag layer of a frame (R82, R83): discriminator, then tag control field. -/
def tagLayer (discriminator : Half) (t : Option TagRecord) : List Byte :=
  match t with
  | none => []
  | some t => halfBytes discriminator ++ tciBytes t

/-- The wire bytes of a frame record in the format of R81, R82 or R83, padded to 46 bytes of payload (R145). -/
def layout (F : FrameRecord) : List Byte :=
  addrBytes F.dst ++ addrBytes F.src ++ tagLayer 0x88A8 F.outer ++ tagLayer 0x8100 F.inner ++ halfBytes F.etherType
    ++ F.payload ++ zeros (46 - F.payload.length)

/-- The 16-bit field at offset `off` of a buffer that holds it (R53). -/
def fieldAt (buf : List Byte) (off : Nat) : Half := buf.getD off 0 ++ buf.getD (off + 1) 0

/-- The tag record of a tag control field's 2 bytes, bit by bit (R77, R78, R101). -/
def tagOf (w0 w1 : Byte) : TagRecord :=
  { pcp := w0.extractLsb' 5 3, dei := w0.extractLsb' 4 1, vid := (w0.extractLsb' 0 4 ++ w1).setWidth 16 }

/-! ### The CRC-32 with the polynomial in normal form -/

/-- One step of a register that shifts towards its most significant bit (R121, polynomial 0x04C11DB7). -/
def normalShift (c : Word) : Word :=
  if c.getMsbD 0 then (c <<< 1) ^^^ 0x04C11DB7 else c <<< 1

/-- `n` steps of that register. -/
def normalShifts : Nat → Word → Word
  | 0, c => c
  | n + 1, c => normalShifts n (normalShift c)

/-- One byte, reflected on input: its least significant bit is processed first (R121). -/
def normalByte (c : Word) (b : Byte) : Word := normalShifts 8 (c ^^^ (b.reverse.setWidth 32 <<< 24))

/-- The CRC-32 by the parameters of R121: initial value, polynomial in normal form, input and output reflected, final
XOR. -/
def normalCrc (b : List Byte) : Word := (b.foldl normalByte 0xFFFFFFFF).reverse ^^^ 0xFFFFFFFF

/-- The buffer with bit `j` of byte `i` inverted. -/
def flipBit (b : List Byte) (i : Nat) (j : Fin 8) : List Byte := b.modify i (fun x => x ^^^ BitVec.twoPow 8 j)

/-! ### Responses and the invariant -/

/-- The errors each operation may raise after its command decode (R201 to R204, R209). -/
def mayRaise (i : Instr) : List Err :=
  match i with
  | .tagPack => [.invalidVlanId]
  | .tagUnpack => []
  | .frameEncode => [.invalidVlanStacking, .invalidVlanId]
  | .frameEncodeFcs => [.invalidVlanStacking, .invalidVlanId]
  | .frameDecode => [.truncatedFrame, .invalidVlanStacking]
  | .frameDecodeFcs => [.truncatedFrame, .invalidChecksum, .invalidVlanStacking]

/-- A result the unit may return: within the capacity (R36), identifiers in range (R33), no outer-only record (R35,
R179). -/
def legalResult (maxBytes : Nat) (r : Result) : Bool :=
  match r with
  | .bytes b => decide (b.length ≤ maxBytes)
  | .tag t => vidInRange t
  | .frame F => accepted F && decide (F.payload.length ≤ maxBytes)

/-- A response the unit may return: `RSP[31:4]` zero, a status code of R76 that is ever returned, a result exactly when
the status is OK (R75, R76, R37), and that result legal. -/
def legalResponse (maxBytes : Nat) (r : Response) : Bool :=
  decide (statusRsv r.rsp = 0) && decide ((statusCode r.rsp).toNat ≤ 5)
    && (r.result.isSome == decide (statusCode r.rsp = 0)) && r.result.all (legalResult maxBytes)

/-- The invariant: the machine has a channel (R8), and every response returned so far is legal. -/
abbrev LegalState (s : State) : Prop :=
  1 ≤ s.channels.length ∧ ∀ c ∈ s.channels, ∀ r ∈ c.responses, legalResponse s.maxFrameBytes r = true

/-! ### One channel alone -/

/-- The turn can touch channel `k`. -/
def concerns (k : Nat) (t : Turn) : Bool :=
  match t with
  | .issue j _ => decide (j = k)
  | .run j => decide (j = k)
  | .reset => true

/-- The machine in which only channel `k` is used: the other channels are idle and no turn is theirs. -/
def only (k : Nat) (s : State) : State :=
  { s with
    channels := s.channels.mapIdx (fun j c => if j = k then c else { c with inFlight := none })
    turns := s.turns.filter (concerns k) }

end Sys2Proof.Safety
end

