-- ==== Sys2Proof/Certificates/Slice0/Obligations.lean ====
section
/-! DEFINITION. The statements for the provers. Each cites the rules of spec/ it formalises; what is the model's own
choice is said with its log entry. A response appended to the active channel is `s.deliver r`: what that changes and what
it leaves unchanged is `ExecChangesOnlyActiveChannel`. -/

open Sys2Proof Sys2Proof.Machine Sys2Proof.Safety

/-! ### Command words -/

/-- R71: the six command words of the table, and every other `OP` value reserved. -/
def Obligations.CommandWordsOfTable : Prop :=
  decode 0x00000001 = .ok .tagPack ∧ decode 0x00000002 = .ok .tagUnpack ∧ decode 0x00000003 = .ok .frameEncode
    ∧ decode 0x00000004 = .ok .frameEncodeFcs ∧ decode 0x00000005 = .ok .frameDecode
    ∧ decode 0x00000006 = .ok .frameDecodeFcs
    ∧ ∀ op : BitVec 4, op = 0 ∨ 7 ≤ op.toNat → decode ((0 : BitVec 28) ++ op) = .error .reservedOp

/-- R70, R71, R73, R89: a 32-bit word is read as an operation exactly when it is that operation's command word. -/
def Obligations.DecodesExactlyTheEncodedWords : Prop :=
  ∀ (w : Word) (i : Instr), decode w = .ok i ↔ w = encode i

/-- R72, R73, R205: a step that performs a request with a reserved command word returns status IllegalOperation and no
result, whatever the operand (which is not read). That this holds of an operand beyond `MAX_FRAME_BYTES` too, where R60
could be read to define no response, is the model's reading (entry 5). -/
def Obligations.ReservedCommandAnswersIllegalOperation : Prop :=
  ∀ (s : State) (k : Nat) (rest : List Turn) (req : Request),
    s.plan = .perform k rest → s.inFlightOn k = some req →
    (req.cmd.extractLsb' 4 28 ≠ 0 ∨ req.cmd.extractLsb' 0 4 = 0 ∨ 7 ≤ (req.cmd.extractLsb' 0 4).toNat) →
    step s = .next ({ s with active := k, turns := rest }.deliver { rsp := 0x00000005, result := none })

/-- R75, R76, R208: the status word of each outcome; a success has its result, an error's response has none. -/
def Obligations.ResponseWordOfEachStatus : Prop :=
  (∀ r : Result, okResponse r = { rsp := 0x00000000, result := some r })
    ∧ errResponse .truncatedFrame = { rsp := 0x00000001, result := none }
    ∧ errResponse .invalidVlanStacking = { rsp := 0x00000002, result := none }
    ∧ errResponse .invalidChecksum = { rsp := 0x00000003, result := none }
    ∧ errResponse .invalidVlanId = { rsp := 0x00000004, result := none }
    ∧ errResponse .illegalOperation = { rsp := 0x00000005, result := none }

/-! ### The step -/

/-- R89, R63: a step that performs a request whose command word decodes runs that operation, on the channel of the
request, with the remaining turns as the plan says. -/
def Obligations.StepRunsTheDecodedOperation : Prop :=
  ∀ (s : State) (k : Nat) (rest : List Turn) (req : Request) (i : Instr),
    s.plan = .perform k rest → s.inFlightOn k = some req → decode req.cmd = .ok i →
    step s = exec i { s with active := k, turns := rest }

/-- When a step performs a request: at a `run` turn of a busy channel (turns are the model's choice, entry 7); at an
`issue` turn of a busy channel, which then stays to come (the model's reading of R216, entry 8); and, with no turn left,
on the lowest-numbered busy channel (the model's choice, entry 7; R245 says only that a request is eventually
answered). -/
def Obligations.PlanPerformsBusyChannels : Prop :=
  ∀ (s : State) (k : Nat) (req : Request), s.inFlightOn k = some req →
    (∀ rest, s.turns = .run k :: rest → s.plan = .perform k rest)
    ∧ (∀ next rest, s.turns = .issue k next :: rest → s.plan = .perform k (.issue k next :: rest))
    ∧ (s.turns = [] → (∀ j, j < k → s.inFlightOn j = none) → s.plan = .perform k [])

/-- R59: a request issued on an idle channel is captured with its operand and nothing else changes. R216: one issued on
a busy channel is not accepted before that channel has answered; that the step then answers the channel and the `issue`
turn stays to come is the model's reading of R216 (entry 8). -/
def Obligations.IssueCapturesOrWaits : Prop :=
  ∀ (s : State) (k : Nat) (req : Request) (rest : List Turn) (c : Channel),
    s.turns = .issue k req :: rest → s.channels[k]? = some c →
    (c.inFlight = none →
      step s = .next { s with channels := s.channels.set k { c with inFlight := some req }, turns := rest })
    ∧ (c.inFlight.isSome → ∀ t, step s = .next t →
      t.turns = s.turns ∧ ∃ r, t.channels[k]? = some { inFlight := none, responses := c.responses ++ [r] })

/-- R31, R32 and the model's own choice (entries 12, 21, 22): a turn that lets an idle channel run has no effect but to
be used up; with no turn left and no request in flight the machine stays as it is; a turn that names a channel the
machine does not have is refused. -/
def Obligations.TurnsWithNothingToDoChangeNothing : Prop :=
  ∀ (s : State) (k : Nat) (rest : List Turn),
    (s.turns = .run k :: rest → k < s.channels.length → s.inFlightOn k = none → step s = .next { s with turns := rest })
    ∧ (s.turns = [] → (∀ j, s.inFlightOn j = none) → step s = .next s)
    ∧ (s.channels.length ≤ k → (s.turns = .run k :: rest ∨ ∃ req, s.turns = .issue k req :: rest) →
        step s = .refused .noSuchChannel)

/-- R240, R241: when reset is asserted the request in progress is abandoned and produces no response, and the channel
is idle. That one reset reaches every channel in one step, and that earlier responses and later turns stay, is the
model's reading (entry 11). -/
def Obligations.ResetAbandonsRequestsInProgress : Prop :=
  ∀ (s : State) (rest : List Turn), s.turns = .reset :: rest →
    ∃ t, step s = .next t ∧ t.turns = rest ∧ t.maxFrameBytes = s.maxFrameBytes
      ∧ t.channels.length = s.channels.length
      ∧ ∀ (k : Nat) (c : Channel), s.channels[k]? = some c →
          t.channels[k]? = some { inFlight := none, responses := c.responses }

/-- R42, R240: after reset every channel is idle, whatever the capacity and the number of channels (their values in
`State.reset` are the model's choice, entries 1 and 2, as is the empty list of responses, entry 9). -/
def Obligations.EveryChannelIdleAfterReset : Prop :=
  State.reset = State.resetWith Config.resetMaxFrameBytes Config.resetInstances
    ∧ ∀ (maxBytes instances k : Nat), k < instances →
      (State.resetWith maxBytes instances).channels[k]? = some { inFlight := none, responses := [] }

/-- R8: `MAX_FRAME_BYTES` and `INSTANCES` are parameters, so no step changes them. -/
def Obligations.StepKeepsTheParameters : Prop :=
  ∀ s t : State, step s = .next t →
    t.maxFrameBytes = s.maxFrameBytes ∧ t.channels.length = s.channels.length

/-- The invariant holds after reset, for every capacity and every number of channels that R8 allows. It holds because
no response has been returned yet: the empty list of responses is the model's choice (entry 9), and so are the
parameters of `State.reset` (entries 1 and 2). -/
def Obligations.LegalAfterReset : Prop :=
  LegalState State.reset ∧ ∀ maxBytes instances : Nat, 1 ≤ instances → LegalState (State.resetWith maxBytes instances)

/-- R75, R76, R37, R179, R8: every step keeps the invariant: every response ever returned has `RSP[31:4]` zero, a
status code 0 to 5, a result exactly when the status is OK, and a result within the capacity that is no outer-only
frame record and has identifiers 0 to 4095. -/
def Obligations.StepKeepsEveryResponseLegal : Prop :=
  ∀ s t : State, LegalState s → step s = .next t → LegalState t

/-! ### What every operation does, and the frame -/

/-- R206, R208, R215, R216, R30: an operation of any kind that answers a next state appends one response to the active
channel, whose operation is then over, and changes nothing else: no other channel, no parameter, no turn. -/
def Obligations.ExecChangesOnlyActiveChannel : Prop :=
  ∀ (i : Instr) (s t : State), exec i s = .next t →
    t.maxFrameBytes = s.maxFrameBytes ∧ t.turns = s.turns ∧ t.active = s.active
      ∧ t.channels.length = s.channels.length
      ∧ (∀ j, j ≠ s.active → t.channels[j]? = s.channels[j]?)
      ∧ ∃ c r, s.channels[s.active]? = some c
          ∧ t.channels[s.active]? = some { inFlight := none, responses := c.responses ++ [r] }

/-- R30, R31: the outcome of an operation depends on its request and the unit's capacity alone, not on the channel, the
responses returned before, or anything else in the state. -/
def Obligations.OutcomeDependsOnRequestAlone : Prop :=
  ∀ (i : Instr) (s t : State), s.request = t.request → s.maxFrameBytes = t.maxFrameBytes →
    (∀ s', exec i s = .next s' → ∃ r, s' = s.deliver r ∧ exec i t = .next (t.deliver r))
    ∧ (∀ x, exec i s = .refused x → exec i t = .refused x)

/-- R201 to R204: which errors each operation may raise. -/
def Obligations.OperationsRaiseOnlyTheirErrors : Prop :=
  ∀ (i : Instr) (s : State) (e : Err), exec i s = .next (s.deliver (errResponse e)) → e ∈ mayRaise i

/-- R74, R37, R60: each of the six operations, given an operand of its own kind and length that fits the capacity, and
whose result would fit, answers a next state: the active channel returns one response. -/
def Obligations.EveryOperationAnswersWithinInterface : Prop :=
  ∀ (i : Instr) (s : State) (o : Operand), Presents s o → i.wfOperand s.maxFrameBytes o = true →
    ∃ r, exec i s = .next (s.deliver r)

/-- R7, R37: every request inside the unit's interface is answered in the step that performs it. That a reserved command
word is inside the interface with any operand, a buffer beyond `MAX_FRAME_BYTES` included, is the model's reading
(entry 5). -/
def Obligations.RequestWithinInterfaceIsAnswered : Prop :=
  ∀ (s : State) (k : Nat) (rest : List Turn) (req : Request),
    s.plan = .perform k rest → s.inFlightOn k = some req → withinInterface s.maxFrameBytes req = true →
    ∃ r, step s = .next ({ s with active := k, turns := rest }.deliver r)

/-- R60: a request whose input buffer or payload is longer than `MAX_FRAME_BYTES`, or whose result would be, is
refused. That the input is checked first, and that a packed tag counts as a buffer (R36), are the model's readings
(entries 3 and 6). -/
def Obligations.RequestBeyondCapacityIsRefused : Prop :=
  (∀ (s : State) (b : List Byte), Presents s (.bytes b) → s.maxFrameBytes < b.length →
    exec .tagUnpack s = .refused .inputTooLong ∧ exec .frameDecode s = .refused .inputTooLong
      ∧ exec .frameDecodeFcs s = .refused .inputTooLong)
  ∧ (∀ (s : State) (F : FrameRecord), Presents s (.frame F) → s.maxFrameBytes < F.payload.length →
    exec .frameEncode s = .refused .inputTooLong ∧ exec .frameEncodeFcs s = .refused .inputTooLong)
  ∧ (∀ (s : State) (F : FrameRecord), Presents s (.frame F) → F.payload.length ≤ s.maxFrameBytes → accepted F = true →
    (s.maxFrameBytes < F.encodedLength → exec .frameEncode s = .refused .resultTooLong)
    ∧ (s.maxFrameBytes < F.encodedLength + 4 → exec .frameEncodeFcs s = .refused .resultTooLong))
  ∧ (∀ (s : State) (t : TagRecord), Presents s (.tag t) → t.vid.toNat ≤ 4095 → s.maxFrameBytes < 2 →
    exec .tagPack s = .refused .resultTooLong)

/-- R74, D29 and entry 4 (an operand of another kind cannot be presented to the operation by its type; the model
refuses it): a TAG_UNPACK operand that is not 2 bytes long, and an operand of another kind, are refused. -/
def Obligations.ForeignOperandIsRefused : Prop :=
  (∀ (s : State) (b : List Byte), Presents s (.bytes b) → b.length ≤ s.maxFrameBytes → b.length ≠ 2 →
    exec .tagUnpack s = .refused .unpackLength)
  ∧ (∀ (s : State) (b : List Byte), Presents s (.bytes b) →
    exec .tagPack s = .refused .operandKind ∧ exec .frameEncode s = .refused .operandKind
      ∧ exec .frameEncodeFcs s = .refused .operandKind)
  ∧ (∀ (s : State) (t : TagRecord), Presents s (.tag t) → ∀ i : Instr, i ≠ .tagPack →
    exec i s = .refused .operandKind)
  ∧ (∀ (s : State) (F : FrameRecord), Presents s (.frame F) → ∀ i : Instr, i ≠ .frameEncode → i ≠ .frameEncodeFcs →
    exec i s = .refused .operandKind)
  ∧ (∀ s : State, Presents s .absent → ∀ i : Instr, exec i s = .refused .operandKind)

/-! ### The VLAN tag codec -/

/-- R100, R102, R78: TAG_PACK answers InvalidVlanId for an identifier above 4095, and otherwise the 2 bytes of the tag
control field, high byte first. That the error is answered even where 2 bytes would exceed `MAX_FRAME_BYTES` is the
model's reading (entry 3). -/
def Obligations.TagPackAnswersControlField : Prop :=
  ∀ (s : State) (t : TagRecord), Presents s (.tag t) →
    (4095 < t.vid.toNat → exec .tagPack s = .next (s.deliver (errResponse .invalidVlanId)))
    ∧ (t.vid.toNat ≤ 4095 → 2 ≤ s.maxFrameBytes →
        exec .tagPack s = .next (s.deliver (okResponse (.bytes (tciBytes t)))))

/-- R101, R103: TAG_UNPACK of any 2 bytes answers their tag record. -/
def Obligations.TagUnpackAnswersTagRecord : Prop :=
  ∀ (s : State) (w0 w1 : Byte), Presents s (.bytes [w0, w1]) → 2 ≤ s.maxFrameBytes →
    exec .tagUnpack s = .next (s.deliver (okResponse (.tag
      { pcp := w0.extractLsb' 5 3, dei := w0.extractLsb' 4 1, vid := (w0.extractLsb' 0 4 ++ w1).setWidth 16 })))

/-- R104: the tag codec is lossless in both directions. -/
def Obligations.TagCodecIsLossless : Prop :=
  (∀ t : TagRecord, t.vid.toNat ≤ 4095 → ∃ w, packTCI t = .ok w ∧ w.length = 2 ∧ unpackTCI w = t)
    ∧ ∀ w : List Byte, w.length = 2 → packTCI (unpackTCI w) = .ok w

/-! ### Frame encode -/

/-- R143, R144, R145: FRAME_ENCODE of a frame record it accepts answers the addresses, the tag layers (outer first),
the EtherType, the whole payload and the zero padding. -/
def Obligations.FrameEncodeAnswersLayout : Prop :=
  ∀ (s : State) (F : FrameRecord), Presents s (.frame F) → accepted F = true →
    F.payload.length ≤ s.maxFrameBytes → F.encodedLength ≤ s.maxFrameBytes →
    exec .frameEncode s = .next (s.deliver (okResponse (.bytes (layout F))))

/-- R147, R123, R84: AppendFCS appends the CRC-32 of all the bytes, big-endian, and FRAME_ENCODE_FCS of a frame record
it accepts answers the bytes of FRAME_ENCODE with their FCS appended. -/
def Obligations.FrameEncodeFcsAnswersLayoutAndFcs : Prop :=
  (∀ b : List Byte, appendFCS b = b ++ wordBytes (crc32 b) ∧ (appendFCS b).length = b.length + 4)
  ∧ ∀ (s : State) (F : FrameRecord), Presents s (.frame F) → accepted F = true →
    F.payload.length ≤ s.maxFrameBytes → F.encodedLength + 4 ≤ s.maxFrameBytes →
    exec .frameEncodeFcs s = .next (s.deliver (okResponse (.bytes (layout F ++ wordBytes (crc32 (layout F))))))

/-- R140, R141, R209, D10: both encode operations check the stacking before the identifiers, and answer with the error
alone. That a failing request has its error response even where a successful result would exceed `MAX_FRAME_BYTES` is
the model's reading (entry 3). -/
def Obligations.EncodeChecksStackingThenIdentifiers : Prop :=
  ∀ (i : Instr) (s : State) (F : FrameRecord), i = .frameEncode ∨ i = .frameEncodeFcs → Presents s (.frame F) →
    F.payload.length ≤ s.maxFrameBytes →
    (F.outer ≠ none → F.inner = none → exec i s = .next (s.deliver (errResponse .invalidVlanStacking)))
    ∧ (¬(F.outer ≠ none ∧ F.inner = none) → (∃ t, (F.outer = some t ∨ F.inner = some t) ∧ 4095 < t.vid.toNat) →
        exec i s = .next (s.deliver (errResponse .invalidVlanId)))

/-- R142, R85: the length of an encoding, with `n` tags and `L` bytes of payload, without and with the FCS. -/
def Obligations.EncodedLengthIsHeaderPlusPaddedPayload : Prop :=
  ∀ (F : FrameRecord) (b : List Byte), encodeFrame F = .ok b →
    b.length = 12 + 4 * ((if F.outer = none then 0 else 1) + (if F.inner = none then 0 else 1)) + 2
        + max F.payload.length 46
      ∧ ∃ bf, encodeFrameFCS F = .ok bf ∧ bf.length = b.length + 4

/-! ### The CRC-32 -/

/-- R122 and the check value of R121 (supplied by the spec from general knowledge, entry 15). -/
def Obligations.CrcOfEmptyAndCheckString : Prop :=
  crc32 [] = 0x00000000 ∧ crc32 [0x31, 0x32, 0x33, 0x34, 0x35, 0x36, 0x37, 0x38, 0x39] = 0xCBF43926

/-- R121: the function of R120 is the CRC-32 of the polynomial 0x04C11DB7 with input and output reflected, initial
value and final XOR 0xFFFFFFFF (all supplied by the spec from general knowledge, entry 15). -/
def Obligations.CrcEqualsNormalForm : Prop :=
  ∀ b : List Byte, crc32 b = normalCrc b

/-- R127: verifying an appended FCS gives the bytes back, and inverting any single bit, of the bytes or of the FCS,
raises InvalidChecksum. It rests on the polynomial the spec supplies (entry 15). -/
def Obligations.FcsDetectsEverySingleBitFlip : Prop :=
  ∀ b : List Byte, verifyFCS (appendFCS b) = .ok b
    ∧ ∀ (i : Nat) (j : Fin 8), i < (appendFCS b).length →
        verifyFCS (flipBit (appendFCS b) i j) = .error .invalidChecksum

/-- R126: a 4-byte buffer passes exactly when it is 00 00 00 00, with an empty body. It rests on the CRC
parameters the spec supplies (entry 15). -/
def Obligations.FourByteBufferPassesOnlyWhenZero : Prop :=
  ∀ b0 b1 b2 b3 : Byte, verifyFCS [b0, b1, b2, b3]
    = if b0 = 0 ∧ b1 = 0 ∧ b2 = 0 ∧ b3 = 0 then .ok [] else .error .invalidChecksum

/-! ### Frame decode -/

/-- R170: a buffer shorter than 14 bytes raises TruncatedFrame. -/
def Obligations.FrameDecodeOfShortBufferIsTruncated : Prop :=
  ∀ (s : State) (buf : List Byte), Presents s (.bytes buf) → buf.length ≤ s.maxFrameBytes → buf.length < 14 →
    exec .frameDecode s = .next (s.deliver (errResponse .truncatedFrame))

/-- R175: a field at offset 12 that is no discriminator is the EtherType of an untagged frame, whose payload is every
byte after the 14-byte header. -/
def Obligations.FrameDecodeAnswersUntaggedFrame : Prop :=
  ∀ (s : State) (dst src : Addr) (et : Half) (p : List Byte),
    Presents s (.bytes (addrBytes dst ++ addrBytes src ++ halfBytes et ++ p)) → 14 + p.length ≤ s.maxFrameBytes →
    et ≠ 0x88A8 → et ≠ 0x8100 →
    exec .frameDecode s = .next (s.deliver (okResponse (.frame
      { dst := dst, src := src, outer := none, inner := none, etherType := et, payload := p })))

/-- R174: 0x8100 at offset 12 announces one tag, the inner one, then the EtherType, whatever its value, and the
payload; a buffer shorter than the 18-byte header raises TruncatedFrame. -/
def Obligations.FrameDecodeAnswersSingleTaggedFrame : Prop :=
  (∀ (s : State) (dst src : Addr) (w0 w1 : Byte) (et : Half) (p : List Byte),
    Presents s (.bytes (addrBytes dst ++ addrBytes src ++ [0x81, 0x00, w0, w1] ++ halfBytes et ++ p)) →
    18 + p.length ≤ s.maxFrameBytes →
    exec .frameDecode s = .next (s.deliver (okResponse (.frame
      { dst := dst, src := src, outer := none, inner := some (tagOf w0 w1), etherType := et, payload := p }))))
  ∧ (∀ (s : State) (buf : List Byte), Presents s (.bytes buf) → buf.length ≤ s.maxFrameBytes →
    14 ≤ buf.length → buf.length < 18 → fieldAt buf 12 = 0x8100 →
    exec .frameDecode s = .next (s.deliver (errResponse .truncatedFrame)))

/-- R173: 0x88A8 at offset 12 announces the outer tag; 0x8100 must follow at offset 16, then the inner tag, the
EtherType, whatever its value, and the payload; the checks come in the order of the reads. That a field at 16 other than
0x8100 is reported before the truncation of an 18- to 21-byte buffer is what R173 marks as the spec's own reading of "at
any point" (D11). -/
def Obligations.FrameDecodeAnswersDoubleTaggedFrame : Prop :=
  (∀ (s : State) (dst src : Addr) (o0 o1 i0 i1 : Byte) (et : Half) (p : List Byte),
    Presents s (.bytes
      (addrBytes dst ++ addrBytes src ++ [0x88, 0xA8, o0, o1, 0x81, 0x00, i0, i1] ++ halfBytes et ++ p)) →
    22 + p.length ≤ s.maxFrameBytes →
    exec .frameDecode s = .next (s.deliver (okResponse (.frame
      { dst := dst, src := src, outer := some (tagOf o0 o1), inner := some (tagOf i0 i1), etherType := et,
        payload := p }))))
  ∧ (∀ (s : State) (buf : List Byte), Presents s (.bytes buf) → buf.length ≤ s.maxFrameBytes →
    14 ≤ buf.length → fieldAt buf 12 = 0x88A8 →
    (buf.length < 18 → exec .frameDecode s = .next (s.deliver (errResponse .truncatedFrame)))
    ∧ (18 ≤ buf.length → fieldAt buf 16 ≠ 0x8100 →
        exec .frameDecode s = .next (s.deliver (errResponse .invalidVlanStacking)))
    ∧ (18 ≤ buf.length → buf.length < 22 → fieldAt buf 16 = 0x8100 →
        exec .frameDecode s = .next (s.deliver (errResponse .truncatedFrame))))

/-- R178: FRAME_DECODE_FCS checks the length, then the FCS, and then answers as the decode of the body. -/
def Obligations.FrameDecodeFcsVerifiesThenDecodes : Prop :=
  (∀ (s : State) (buf : List Byte), Presents s (.bytes buf) → buf.length ≤ s.maxFrameBytes → buf.length < 4 →
    exec .frameDecodeFcs s = .next (s.deliver (errResponse .truncatedFrame)))
  ∧ ∀ (s : State) (body : List Byte) (rx : Word), Presents s (.bytes (body ++ wordBytes rx)) →
    body.length + 4 ≤ s.maxFrameBytes →
    (crc32 body ≠ rx → exec .frameDecodeFcs s = .next (s.deliver (errResponse .invalidChecksum)))
    ∧ (crc32 body = rx →
        (∀ e, decodeFrame body = .error e → exec .frameDecodeFcs s = .next (s.deliver (errResponse e)))
        ∧ (∀ F, decodeFrame body = .ok F → exec .frameDecodeFcs s = .next (s.deliver (okResponse (.frame F)))))

/-- R179: what every frame record answered by a decode operation is, `body` being the buffer, less its last 4 bytes for
the FCS form: well stacked, identifiers 0 to 4095, the addresses and the payload copies of the body's bytes, with a
header of 14, 18 or 22 bytes (14 and 4 for each tag). -/
def Obligations.DecodedFrameIsWellFormed : Prop :=
  ∀ (buf body : List Byte) (F : FrameRecord),
    ((decodeFrame buf = .ok F ∧ body = buf) ∨ (decodeFrameFCS buf = .ok F ∧ body = buf.take (buf.length - 4))) →
    ¬(F.outer ≠ none ∧ F.inner = none)
      ∧ (∀ t, F.outer = some t ∨ F.inner = some t → t.vid.toNat ≤ 4095)
      ∧ addrBytes F.dst = body.take 6 ∧ addrBytes F.src = (body.drop 6).take 6
      ∧ (F.headerLength = 14 ∨ F.headerLength = 18 ∨ F.headerLength = 22)
      ∧ F.payload = body.drop F.headerLength ∧ F.headerLength + F.payload.length = body.length

/-! ### Round trips -/

/-- R181 case 1: decoding the encoding of an accepted frame record, other than an untagged one whose EtherType is a
discriminator, gives it back with its payload padded to 46 bytes. -/
def Obligations.DecodeOfEncodeGivesPaddedFrame : Prop :=
  ∀ F : FrameRecord, accepted F = true →
    (F.inner ≠ none ∨ (F.etherType ≠ 0x8100 ∧ F.etherType ≠ 0x88A8)) →
    ∃ b, encodeFrame F = .ok b ∧ decodeFrame b = .ok (padded F)

/-- R181 case 4: through the FCS forms the round trip has the same outcome, success or error. -/
def Obligations.FcsRoundTripHasSameOutcome : Prop :=
  ∀ (F : FrameRecord) (b : List Byte), encodeFrame F = .ok b →
    ∃ bf, encodeFrameFCS F = .ok bf ∧ decodeFrameFCS bf = decodeFrame b

/-- R181 cases 2 and 3: an untagged frame record whose EtherType is a discriminator is misread: its first payload bytes
are read as a tag, or its stacking is refused. That the bytes read are those of the payload as padded on encode is the
model's reading for a payload shorter than 4 bytes (entry 23). -/
def Obligations.UntaggedDiscriminatorIsMisread : Prop :=
  ∀ (F : FrameRecord) (p0 p1 p2 p3 : Byte) (p : List Byte), F.outer = none → F.inner = none →
    (padded F).payload = p0 :: p1 :: p2 :: p3 :: p →
    ∃ b, encodeFrame F = .ok b
      ∧ (F.etherType = 0x8100 → decodeFrame b = .ok
          { F with inner := some (tagOf p0 p1), etherType := p2 ++ p3, payload := p })
      ∧ (F.etherType = 0x88A8 → p2 ++ p3 ≠ (0x8100 : Half) → decodeFrame b = .error .invalidVlanStacking)
      ∧ (F.etherType = 0x88A8 → p2 ++ p3 = (0x8100 : Half) →
          ∃ G, decodeFrame b = .ok G ∧ G.outer = some (tagOf p0 p1) ∧ G.inner ≠ none)

/-! ### Runs -/

/-- R216, R88, R30: requests inside the interface, issued one after the other on one idle channel that runs each, are
all answered, in issue order, and each response is a function of its request (and the capacity) alone; the other
channels are unchanged. The turns are the model's choice (entry 7), and that a reserved command word is inside the
interface with any operand is the model's reading (entry 5). -/
def Obligations.RequestsAnsweredInIssueOrder : Prop :=
  ∃ f : Nat → Request → Response, ∀ (reqs : List Request) (s : State) (k : Nat) (c : Channel) (rest : List Turn),
    s.channels[k]? = some c → c.inFlight = none →
    (∀ req ∈ reqs, withinInterface s.maxFrameBytes req = true) →
    s.turns = reqs.flatMap (fun req => [.issue k req, .run k]) ++ rest →
    ∃ t, runSteps (2 * reqs.length) s = .next t ∧ t.turns = rest
      ∧ t.channels = s.channels.set k
          { inFlight := none, responses := c.responses ++ reqs.map (f s.maxFrameBytes) }

/-- R61, R215: whatever the other channels do and however the turns interleave, a run leaves on channel `k` what a run
with that channel's turns alone leaves on it. The turns, and which channel answers when none is left, are the model's
choice (entry 7), and so is that a refused request ends the run of every channel (entry 25): the statement is about runs
without one. -/
def Obligations.OtherChannelsDoNotMatter : Prop :=
  ∀ (n k : Nat) (s s' : State), runSteps n s = .next s' →
    ∃ m t, m ≤ n ∧ runSteps m (only k s) = .next t ∧ t.channels[k]? = s'.channels[k]?

/-- R245: with no turn left and every request in flight inside the interface, the unit answers one request a step until
every channel is idle; each busy channel has then returned one response more, and the idle ones none. R245 says only that
a request issued is eventually answered: that each step with no turn left makes a busy channel perform is the model's
choice (entry 7), and that a reserved command word is inside the interface with any operand is its reading (entry 5). -/
def Obligations.RequestsInFlightAreAllAnswered : Prop :=
  ∀ s : State, s.turns = [] →
    (∀ c ∈ s.channels, ∀ req, c.inFlight = some req → withinInterface s.maxFrameBytes req = true) →
    ∃ t, runSteps (busyCount s) s = .next t ∧ t.turns = []
      ∧ ∀ (k : Nat) (c : Channel), s.channels[k]? = some c →
          (c.inFlight = none → t.channels[k]? = some c)
          ∧ (c.inFlight ≠ none → ∃ r, t.channels[k]? = some { inFlight := none, responses := c.responses ++ [r] })
end

