-- ==== Sys2Proof/Laws/Bytes.lean ====
section
/-! SUPPORT. Laws of byte order and buffer access: lengths, round trips of big-endian values, what a read answers with,
and that a write changes the bytes written and no other. -/

namespace Sys2Proof.Laws

open Sys2Proof Sys2Proof.Machine

@[simp] theorem length_beBytes (n v : Nat) : (beBytes n v).length = n := by
  induction n with
  | zero => rfl
  | succ n ih => simp [beBytes, ih]

@[simp] theorem length_be16 (v : Half) : (be16 v).length = 2 := rfl

@[simp] theorem length_be32 (v : Word) : (be32 v).length = 4 := rfl

@[simp] theorem length_zeros (n : Nat) : (zeros n).length = n := by simp [zeros]

@[simp] theorem length_addrBytes (a : Addr) : (addrBytes a).length = 6 := rfl

@[simp] theorem addrOfBytes_addrBytes (a : Addr) : addrOfBytes (addrBytes a) = a := rfl

theorem addrBytes_addrOfBytes {b : List Byte} (h : b.length = 6) : addrBytes (addrOfBytes b) = b := by
  match b, h with
  | [_, _, _, _, _, _], _ => rfl

theorem beValue_lt (b : List Byte) : beValue b < 256 ^ b.length := by
  induction b with
  | nil => simp [beValue]
  | cons x xs ih =>
    have hx : x.toNat + 1 ≤ 256 := x.isLt
    have := Nat.mul_le_mul_right (256 ^ xs.length) hx
    simp only [beValue, List.length_cons, Nat.pow_succ]
    rw [Nat.succ_mul] at this
    omega

theorem beValue_beBytes (n v : Nat) : beValue (beBytes n v) = v % 256 ^ n := by
  induction n with
  | zero => simp [beBytes, beValue, Nat.mod_one]
  | succ n ih =>
    have h : (BitVec.ofNat 8 (v / 256 ^ n)).toNat = v / 256 ^ n % 256 := by simp
    rw [beBytes, beValue, ih, length_beBytes, h, Nat.pow_succ, Nat.mod_mul, Nat.mul_comm (256 ^ n)]
    omega

theorem beBytes_add_mul (n v c : Nat) : beBytes n (c * 256 ^ n + v) = beBytes n v := by
  induction n generalizing c v with
  | zero => rfl
  | succ n ih =>
    have hp : 0 < 256 ^ n := Nat.pow_pos (by decide)
    have h1 : (c * 256 ^ (n + 1) + v) / 256 ^ n = c * 256 + v / 256 ^ n := by
      rw [Nat.pow_succ, show c * (256 ^ n * 256) = 256 ^ n * (c * 256) by ring, Nat.mul_add_div hp]
    have h2 : beBytes n (c * 256 ^ (n + 1) + v) = beBytes n v := by
      rw [Nat.pow_succ, show c * (256 ^ n * 256) = (c * 256) * 256 ^ n by ring, ih]
    rw [beBytes, beBytes, h1, h2]
    congr 1
    apply BitVec.eq_of_toNat_eq
    simp

theorem beBytes_beValue (b : List Byte) : beBytes b.length (beValue b) = b := by
  induction b with
  | nil => rfl
  | cons x xs ih =>
    have hlt := beValue_lt xs
    have hp : 0 < 256 ^ xs.length := Nat.pow_pos (by decide)
    have h1 : (x.toNat * 256 ^ xs.length + beValue xs) / 256 ^ xs.length = x.toNat := by
      rw [Nat.mul_comm, Nat.mul_add_div hp, Nat.div_eq_of_lt hlt, Nat.add_zero]
    rw [List.length_cons, beValue, beBytes, h1, beBytes_add_mul, ih]
    simp

theorem memReadBytes_ok {buf : List Byte} {off n : Nat} (h : off + n ≤ buf.length) :
    memReadBytes buf off n = .ok ((buf.drop off).take n) := by
  simp [memReadBytes, Nat.not_lt.mpr h]

theorem memReadBytes_truncated {buf : List Byte} {off n : Nat} (h : buf.length < off + n) :
    memReadBytes buf off n = .error .truncatedFrame := by
  simp [memReadBytes, h]

/-- What a read can do: answer with `n` bytes of the buffer, or raise TruncatedFrame. -/
theorem memReadBytes_cases (buf : List Byte) (off n : Nat) :
    (off + n ≤ buf.length ∧ ∃ w, memReadBytes buf off n = .ok w ∧ w = (buf.drop off).take n ∧ w.length = n)
      ∨ (buf.length < off + n ∧ memReadBytes buf off n = .error .truncatedFrame) := by
  by_cases h : off + n ≤ buf.length
  · exact .inl ⟨h, _, memReadBytes_ok h, rfl, by simp; omega⟩
  · exact .inr ⟨by omega, memReadBytes_truncated (by omega)⟩

/-- A read of a middle part of a buffer answers with that part. -/
theorem memReadBytes_append (a b c : List Byte) :
    memReadBytes (a ++ b ++ c) a.length b.length = .ok b := by
  rw [memReadBytes_ok (by simp)]
  simp

theorem length_writeBytes {out b : List Byte} {off : Nat} (h : off + b.length ≤ out.length) :
    (writeBytes out off b).length = out.length := by
  simp [writeBytes]; omega

theorem length_memWrite {out : List Byte} {off n : Nat} (v : Nat) (h : off + n ≤ out.length) :
    (memWrite out off n v).length = out.length :=
  length_writeBytes (by simpa using h)

/-- A write into a middle part of a buffer replaces that part. -/
theorem writeBytes_append {a x c b : List Byte} (h : x.length = b.length) :
    writeBytes (a ++ x ++ c) a.length b = a ++ b ++ c := by
  simp [writeBytes, ← h]

/-- A read of the bytes just written gives them. -/
theorem read_after_write {out b : List Byte} {off : Nat} (h : off + b.length ≤ out.length) :
    memReadBytes (writeBytes out off b) off b.length = .ok b := by
  rw [memReadBytes_ok (by rw [length_writeBytes h]; exact h)]
  simp [writeBytes, Nat.min_eq_left (Nat.le_of_add_right_le h)]

/-- A byte outside the bytes written is as before. -/
theorem writeBytes_frame {out b : List Byte} {off j : Nat} (h : off + b.length ≤ out.length)
    (hj : j < off ∨ off + b.length ≤ j) : (writeBytes out off b)[j]? = out[j]? := by
  have hm : min off out.length = off := by omega
  rcases hj with hj | hj
  · rw [writeBytes, List.append_assoc, List.getElem?_append_left (by simp; omega)]
    simp [hj]
  · rw [writeBytes, List.getElem?_append_right (by simp; omega)]
    simp only [List.length_append, List.length_take, hm, List.getElem?_drop]
    congr 1
    omega

end Sys2Proof.Laws
end

