-- ==== Sys2Proof/Laws/Codec.lean ====
section
/-! SUPPORT. What each function of the codec can do, said once: packing a tag, reading a field, verifying an FCS, the
checks of the encoder. -/

namespace Sys2Proof.Laws

open Sys2Proof Sys2Proof.Machine

/-- Packing a tag: 2 bytes, or InvalidVlanId. -/
theorem packTCI_cases (t : TagRecord) :
    (t.vid.toNat ≤ 4095 ∧ ∃ w, packTCI t = .ok w ∧ w.length = 2)
      ∨ (4095 < t.vid.toNat ∧ packTCI t = .error .invalidVlanId) := by
  by_cases h : t.vid.toNat ≤ 4095
  · refine .inl ⟨h, be16 _, if_neg ?_, length_be16 _⟩
    simpa using h
  · refine .inr ⟨by omega, if_pos ?_⟩
    simpa using h

theorem unpackTCI_vid_le (w : List Byte) : (unpackTCI w).vid.toNat ≤ 4095 := by
  have := ((BitVec.ofNat 16 (beValue w)).extractLsb' 0 12).isLt
  simp only [unpackTCI, BitVec.toNat_setWidth]
  omega

/-- Reading a 16-bit field: its value, or TruncatedFrame. -/
theorem readHalf_ok {buf : List Byte} {off : Nat} (h : off + 2 ≤ buf.length) :
    readHalf buf off = .ok (BitVec.ofNat 16 (beValue ((buf.drop off).take 2))) := by
  simp [readHalf, memRead, memReadBytes_ok h, Except.map]

theorem readHalf_truncated {buf : List Byte} {off : Nat} (h : buf.length < off + 2) :
    readHalf buf off = .error .truncatedFrame := by
  simp [readHalf, memRead, memReadBytes_truncated h, Except.map]

/-- Reading a tag control field: its tag record, or TruncatedFrame. -/
theorem readTag_ok {buf : List Byte} {off : Nat} (h : off + 2 ≤ buf.length) :
    readTag buf off = .ok (unpackTCI ((buf.drop off).take 2)) := by
  simp [readTag, memReadBytes_ok h, Except.map]

theorem readTag_truncated {buf : List Byte} {off : Nat} (h : buf.length < off + 2) :
    readTag buf off = .error .truncatedFrame := by
  simp [readTag, memReadBytes_truncated h, Except.map]

/-- Everything VerifyFCS can do. -/
theorem verifyFCS_cases (buf : List Byte) :
    (buf.length < 4 ∧ verifyFCS buf = .error .truncatedFrame)
      ∨ ∃ body fcs, buf = body ++ fcs ∧ fcs.length = 4
          ∧ ((crc32 body).toNat = beValue fcs ∧ verifyFCS buf = .ok body
            ∨ (crc32 body).toNat ≠ beValue fcs ∧ verifyFCS buf = .error .invalidChecksum) := by
  by_cases h : buf.length < 4
  · exact .inl ⟨h, by simp [verifyFCS, h]⟩
  · refine .inr ⟨buf.take (buf.length - 4), buf.drop (buf.length - 4), (List.take_append_drop _ _).symm,
      by simp; omega, ?_⟩
    have hr : memRead buf (buf.length - 4) 4 = .ok (beValue (buf.drop (buf.length - 4))) := by
      rw [memRead, memReadBytes_ok (by omega), List.take_of_length_le (by simp; omega)]
      rfl
    by_cases hc : (crc32 (buf.take (buf.length - 4))).toNat = beValue (buf.drop (buf.length - 4))
    · exact .inl ⟨hc, by simp [verifyFCS, h, hr, hc, bind, Except.bind]⟩
    · exact .inr ⟨hc, by simp [verifyFCS, h, hr, hc, bind, Except.bind]⟩

/-- When the encoder's checks pass, in the order of R209, its bytes are those of `fillFrame`. -/
theorem encodeFrame_of_packed {F : FrameRecord} {otci itci : List Byte} (hs : (F.outer.isSome && F.inner.isNone) = false)
    (ho : packPresent F.outer = .ok otci) (hi : packPresent F.inner = .ok itci) :
    encodeFrame F = .ok (fillFrame F otci itci) := by
  simp only [encodeFrame, hs, ho, hi, bind, Except.bind, Bool.false_eq_true, if_false]

end Sys2Proof.Laws
end

