-- ==== Sys2Proof/Laws/Crc.lean ====
section
/-! SUPPORT. The CRC register is linear over XOR and loses no information: the two facts single-bit error detection
rests on. -/

namespace Sys2Proof.Laws

open Sys2Proof Sys2Proof.Machine

theorem crcShift_eq (c : Word) : crcShift c = (c >>> 1) ^^^ (if c.getLsbD 0 then crcPoly else 0) := by
  unfold crcShift; split <;> simp

theorem crcShift_xor (c d : Word) : crcShift (c ^^^ d) = crcShift c ^^^ crcShift d := by
  have cancel : ∀ a b p : Word, (a ^^^ p) ^^^ (b ^^^ p) = a ^^^ b := fun a b p => by
    rw [show (a ^^^ p) ^^^ (b ^^^ p) = (a ^^^ b) ^^^ (p ^^^ p) by ac_rfl]; simp
  simp only [crcShift_eq, BitVec.ushiftRight_xor_distrib, BitVec.getLsbD_xor]
  cases c.getLsbD 0 <;> cases d.getLsbD 0
  · simp
  · simp only [Bool.false_xor, if_true, if_false, reduceCtorEq]; ac_rfl
  · simp only [Bool.xor_false, if_true, if_false, reduceCtorEq]; ac_rfl
  · simp [cancel]

theorem crcShifts_xor (n : Nat) (c d : Word) : crcShifts n (c ^^^ d) = crcShifts n c ^^^ crcShifts n d := by
  induction n generalizing c d with
  | zero => rfl
  | succ n ih => simp [crcShifts, crcShift_xor, ih]

/-- The register's most significant bit after a step is the bit shifted out, since the polynomial has that bit set. -/
theorem crcShift_msb (c : Word) : (crcShift c).getLsbD 31 = c.getLsbD 0 := by
  rw [crcShift_eq]
  cases h : c.getLsbD 0 <;> simp [crcPoly]

theorem crcShift_eq_zero {c : Word} (h : crcShift c = 0) : c = 0 := by
  have h0 : c.getLsbD 0 = false := by rw [← crcShift_msb, h]; simp
  have h1 : c >>> 1 = 0 := by rwa [crcShift, h0] at h
  apply BitVec.eq_of_getLsbD_eq
  intro i hi
  cases i with
  | zero => simpa using h0
  | succ i =>
    have := congrArg (fun x => x.getLsbD i) h1
    simpa [Nat.add_comm] using this

theorem crcShifts_eq_zero {n : Nat} {c : Word} (h : crcShifts n c = 0) : c = 0 := by
  induction n generalizing c with
  | zero => exact h
  | succ n ih => exact crcShift_eq_zero (ih h)

end Sys2Proof.Laws
end

