-- ==== Sys2Proof/Laws/State.lean ====
section
/-! SUPPORT. One lemma per field and per update of State, true by unfolding the update, and how an update changes one
channel. -/

namespace Sys2Proof.Laws

open Sys2Proof Sys2Proof.Machine

section updates

variable (s : State) (r : Response) (k : Nat) (req : Request) (ts : List Turn)

@[simp] theorem deliver_maxFrameBytes : (s.deliver r).maxFrameBytes = s.maxFrameBytes := rfl
@[simp] theorem deliver_turns : (s.deliver r).turns = s.turns := rfl
@[simp] theorem deliver_active : (s.deliver r).active = s.active := rfl
@[simp] theorem deliver_channels :
    (s.deliver r).channels = s.channels.modify s.active (Channel.answer r) := rfl

@[simp] theorem accept_maxFrameBytes : (s.accept k req ts).maxFrameBytes = s.maxFrameBytes := rfl
@[simp] theorem accept_turns : (s.accept k req ts).turns = ts := rfl
@[simp] theorem accept_active : (s.accept k req ts).active = s.active := rfl
@[simp] theorem accept_channels : (s.accept k req ts).channels
    = s.channels.modify k (fun c => { c with inFlight := some req }) := rfl

@[simp] theorem assertReset_maxFrameBytes : (s.assertReset ts).maxFrameBytes = s.maxFrameBytes := rfl
@[simp] theorem assertReset_turns : (s.assertReset ts).turns = ts := rfl
@[simp] theorem assertReset_active : (s.assertReset ts).active = s.active := rfl
@[simp] theorem assertReset_channels :
    (s.assertReset ts).channels = s.channels.map (fun c => { c with inFlight := none }) := rfl

@[simp] theorem select_maxFrameBytes : (s.select k ts).maxFrameBytes = s.maxFrameBytes := rfl
@[simp] theorem select_turns : (s.select k ts).turns = ts := rfl
@[simp] theorem select_active : (s.select k ts).active = k := rfl
@[simp] theorem select_channels : (s.select k ts).channels = s.channels := rfl

@[simp] theorem withFetchWord_maxFrameBytes (n w : Nat) :
    (s.withFetchWord n w).maxFrameBytes = s.maxFrameBytes := rfl
@[simp] theorem withFetchWord_turns (n w : Nat) : (s.withFetchWord n w).turns = .run 0 :: s.turns := rfl
@[simp] theorem withFetchWord_active (n w : Nat) : (s.withFetchWord n w).active = s.active := rfl

@[simp] theorem resetWith_maxFrameBytes (m n : Nat) : (State.resetWith m n).maxFrameBytes = m := rfl
@[simp] theorem resetWith_turns (m n : Nat) : (State.resetWith m n).turns = [] := rfl
@[simp] theorem resetWith_channels (m n : Nat) :
    (State.resetWith m n).channels = List.replicate n Channel.idle := rfl

@[simp] theorem answer_inFlight (c : Channel) : (c.answer r).inFlight = none := rfl
@[simp] theorem answer_responses (c : Channel) : (c.answer r).responses = c.responses ++ [r] := rfl

end updates

/-- The request the step performs is the one in flight on the selected channel. -/
@[simp] theorem select_request (s : State) (k : Nat) (ts : List Turn) :
    (s.select k ts).request = s.inFlightOn k := rfl

theorem inFlightOn_eq_some {s : State} {k : Nat} {req : Request} :
    s.inFlightOn k = some req ↔ ∃ c, s.channels[k]? = some c ∧ c.inFlight = some req := by
  simp [State.inFlightOn, Option.bind_eq_some_iff]

theorem deliver_channel_self {s : State} {c : Channel} (r : Response) (h : s.channels[s.active]? = some c) :
    (s.deliver r).channels[s.active]? = some (c.answer r) := by
  simp [h]

theorem deliver_channel_ne {s : State} {j : Nat} (r : Response) (h : j ≠ s.active) :
    (s.deliver r).channels[j]? = s.channels[j]? := by
  simp [Ne.symm h]

theorem accept_channel_ne {s : State} {j k : Nat} (req : Request) (ts : List Turn) (h : j ≠ k) :
    (s.accept k req ts).channels[j]? = s.channels[j]? := by
  simp [Ne.symm h]

end Sys2Proof.Laws
end

