-- ==== Sys2Proof/Laws/Ops.lean ====
section
/-! SUPPORT. What each shared operation can do, said once: how an operation ends, what a meaning can answer, what a step
can do. Later proofs cite these and do not unfold the operations. -/

namespace Sys2Proof.Laws

open Sys2Proof Sys2Proof.Machine

/-- Everything an operation can do: refuse its operand, raise, return, or refuse a result that does not fit. -/
theorem perform_cases {α : Type} (operand : Except Refusal α) (op : α → Except Err Result) (s : State) :
    (∃ x, operand = .error x ∧ perform operand op s = .refused x)
      ∨ (∃ a e, operand = .ok a ∧ op a = .error e ∧ perform operand op s = .next (s.deliver (errResponse e)))
      ∨ (∃ a r, operand = .ok a ∧ op a = .ok r ∧ resultBytes r ≤ s.maxFrameBytes
          ∧ perform operand op s = .next (s.deliver (okResponse r)))
      ∨ (∃ a r, operand = .ok a ∧ op a = .ok r ∧ s.maxFrameBytes < resultBytes r
          ∧ perform operand op s = .refused .resultTooLong) := by
  cases operand with
  | error x => exact .inl ⟨x, rfl, rfl⟩
  | ok a =>
    cases h : op a with
    | error e => exact .inr (.inl ⟨a, e, rfl, h, by simp [perform, h, finish, raise]⟩)
    | ok r =>
      by_cases hr : resultBytes r ≤ s.maxFrameBytes
      · exact .inr (.inr (.inl ⟨a, r, rfl, h, hr, by simp [perform, h, finish, returnResult, hr]⟩))
      · exact .inr (.inr (.inr ⟨a, r, rfl, h, by omega, by simp [perform, h, finish, returnResult, hr]⟩))

theorem perform_raises {α : Type} {operand : Except Refusal α} {op : α → Except Err Result} {s : State} {a : α}
    {e : Err} (ha : operand = .ok a) (he : op a = .error e) :
    perform operand op s = .next (s.deliver (errResponse e)) := by
  simp [perform, ha, he, finish, raise]

theorem perform_returns {α : Type} {operand : Except Refusal α} {op : α → Except Err Result} {s : State} {a : α}
    {r : Result} (ha : operand = .ok a) (hr : op a = .ok r) (hfit : resultBytes r ≤ s.maxFrameBytes) :
    perform operand op s = .next (s.deliver (okResponse r)) := by
  simp [perform, ha, hr, finish, returnResult, hfit]

theorem perform_refuses {α : Type} {operand : Except Refusal α} {op : α → Except Err Result} {s : State} {x : Refusal}
    (hx : operand = .error x) : perform operand op s = .refused x := by
  simp [perform, hx]

/-! The operand forms, given what the active request presents. -/

theorem operand_of_request {s : State} {o : Operand} (h : s.request.map Request.operand = some o) :
    operand s = .ok o := by
  obtain ⟨req, hr, ho⟩ := Option.map_eq_some_iff.mp h
  simp [operand, hr, ho]

theorem tagOperand_eq {s : State} {o : Operand} (h : s.request.map Request.operand = some o) :
    tagOperand s = asTag o := by
  simp [tagOperand, operand_of_request h, Except.bind]

theorem bufferOperand_eq {s : State} {o : Operand} (h : s.request.map Request.operand = some o) :
    bufferOperand s = asBuffer s.maxFrameBytes o := by
  simp [bufferOperand, operand_of_request h, Except.bind]

theorem twoBytesOperand_eq {s : State} {o : Operand} (h : s.request.map Request.operand = some o) :
    twoBytesOperand s = asTwoBytes s.maxFrameBytes o := by
  simp [twoBytesOperand, operand_of_request h, Except.bind]

theorem frameOperand_eq {s : State} {o : Operand} (h : s.request.map Request.operand = some o) :
    frameOperand s = asFrame s.maxFrameBytes o := by
  simp [frameOperand, operand_of_request h, Except.bind]

/-- Every meaning is an operation of the shared form: the pure outcome of the operand, ended by `finish`. -/
theorem exec_is_perform (i : Instr) (s : State) :
    ∃ (α : Type) (operand : Except Refusal α) (op : α → Except Err Result), exec i s = perform operand op s := by
  cases i <;> exact ⟨_, _, _, rfl⟩

/-- What a step can do, guards included. -/
theorem step_cases {s t : State} (h : step s = .next t) :
    (s.plan = .rest ∧ t = s)
      ∨ (∃ ts, s.plan = .skip ts ∧ t = { s with turns := ts })
      ∨ (∃ k req ts, s.plan = .accept k req ts ∧ t = s.accept k req ts)
      ∨ (∃ k ts, s.plan = .perform k ts ∧ runRequest (s.select k ts) = .next t)
      ∨ (∃ ts, s.plan = .reset ts ∧ t = s.assertReset ts) := by
  unfold step at h
  cases hp : s.plan with
  | rest => exact .inl ⟨rfl, by simpa [hp] using h.symm⟩
  | skip ts => exact .inr (.inl ⟨ts, rfl, by simpa [hp] using h.symm⟩)
  | accept k req ts => exact .inr (.inr (.inl ⟨k, req, ts, rfl, by simpa [hp] using h.symm⟩))
  | perform k ts => exact .inr (.inr (.inr (.inl ⟨k, ts, rfl, by simpa [hp] using h⟩)))
  | reset ts => exact .inr (.inr (.inr (.inr ⟨ts, rfl, by simpa [hp] using h.symm⟩)))
  | noSuchChannel => simp [hp] at h

/-- What performing a request can do: a reserved word raises IllegalOperation, any other runs its operation. -/
theorem runRequest_cases {s : State} {req : Request} (h : s.request = some req) :
    (∃ i, decode req.cmd = .ok i ∧ runRequest s = exec i s)
      ∨ (∃ x, decode req.cmd = .error x ∧ runRequest s = .next (s.deliver (errResponse .illegalOperation))) := by
  cases hd : decode req.cmd with
  | ok i => exact .inl ⟨i, rfl, by simp [runRequest, fetch, h, hd]⟩
  | error x => exact .inr ⟨x, rfl, by simp [runRequest, fetch, h, hd, raise]⟩

end Sys2Proof.Laws
end

