-- ==== Sys2Proof/Laws/PerInstr.lean ====
section
/-! SUPPORT. Statements about every operation as syntax, one lemma per constructor. -/

namespace Sys2Proof.Laws.CommandWord

open Sys2Proof

/-- The operation's command word has a zero reserved field and the operation's code in its `OP` field (R70, R71). -/
def Statement (i : Instr) : Prop := cmdRsv (encode i) = 0 ∧ cmdOp (encode i) = opcode i

theorem tagPack : Statement .tagPack := by unfold Statement; decide
theorem tagUnpack : Statement .tagUnpack := by unfold Statement; decide
theorem frameEncode : Statement .frameEncode := by unfold Statement; decide
theorem frameEncodeFcs : Statement .frameEncodeFcs := by unfold Statement; decide
theorem frameDecode : Statement .frameDecode := by unfold Statement; decide
theorem frameDecodeFcs : Statement .frameDecodeFcs := by unfold Statement; decide

end Sys2Proof.Laws.CommandWord
end

