-- ==== Sys2Proof/Machine/Assembly.lean ====
section
/-! DEFINITION. The textual form of a request (30_encoding R88, D23): the dotted mnemonic, then the named operands. It
is notation for people; the machine does not use it. -/

namespace Sys2Proof.Machine

open Sys2Proof

/-- The textual mnemonic of each operation (R88). -/
def asmMnemonic (i : Instr) : String :=
  match i with
  | .tagPack => "tag.pack"
  | .tagUnpack => "tag.unpack"
  | .frameEncode => "frame.enc"
  | .frameEncodeFcs => "frame.enc.fcs"
  | .frameDecode => "frame.dec"
  | .frameDecodeFcs => "frame.dec.fcs"

/-- One hex digit, capital letters (R88). -/
def asmHexDigit (n : Nat) : String :=
  String.singleton (Char.ofNat (if n < 10 then 48 + n else 55 + n))

/-- A byte as two hex digits (R88). -/
def asmByte (b : Byte) : String := asmHexDigit (b.toNat / 16) ++ asmHexDigit (b.toNat % 16)

/-- Bytes as hex pairs with a separator, a space or a colon (R88). -/
def asmBytes (sep : String) (b : List Byte) : String :=
  match b with
  | [] => ""
  | [x] => asmByte x
  | x :: y :: xs => asmByte x ++ sep ++ asmBytes sep (y :: xs)

/-- A tag as `(pcp, dei, vid)`, written in a frame's operands without spaces (R88). -/
def asmTag (t : TagRecord) : String :=
  "(" ++ t.pcp.toNat.repr ++ "," ++ t.dei.toNat.repr ++ "," ++ t.vid.toNat.repr ++ ")"

/-- An optional tag operand: nothing when the tag is absent (R88). -/
def asmOptTag (name : String) (t : Option TagRecord) : String :=
  match t with
  | none => ""
  | some t => ", " ++ name ++ "=" ++ asmTag t

/-- The operands of `frame.enc` and `frame.enc.fcs` (R88). -/
def asmFrame (F : FrameRecord) : String :=
  "dst=" ++ asmBytes ":" (addrBytes F.dst) ++ ", src=" ++ asmBytes ":" (addrBytes F.src)
    ++ asmOptTag "stag" F.outer ++ asmOptTag "ctag" F.inner
    ++ ", type=0x" ++ asmBytes "" (be16 F.etherType) ++ ", payload=[" ++ asmBytes " " F.payload ++ "]"

/-- The operand of each operation (R88); an operand that is not of the operation's kind has no textual form. -/
def asmOperand (i : Instr) (o : Operand) : Option String :=
  match i with
  | .tagPack => match o with
    | .tag t => some ("pcp=" ++ t.pcp.toNat.repr ++ ", dei=" ++ t.dei.toNat.repr ++ ", vid=" ++ t.vid.toNat.repr)
    | .absent | .bytes _ | .frame _ => none
  | .tagUnpack => match o with
    | .bytes b => if b.length = 2 then some (asmBytes " " b) else none
    | .absent | .tag _ | .frame _ => none
  | .frameEncode | .frameEncodeFcs => match o with
    | .frame F => some (asmFrame F)
    | .absent | .tag _ | .bytes _ => none
  | .frameDecode | .frameDecodeFcs => match o with
    | .bytes b => some ("[" ++ asmBytes " " b ++ "]")
    | .absent | .tag _ | .frame _ => none

/-- The textual form of a request; a reserved command word has none (R88). -/
def asm (req : Request) : Option String :=
  match decode req.cmd with
  | .ok i => (asmOperand i req.operand).map (fun o => asmMnemonic i ++ " " ++ o)
  | .error _ => none

end Sys2Proof.Machine
end

