-- ==== Sys2Proof/Tests/Slice0.lean ====
section
/-! SUPPORT. The model's own tests: decoding of command words written out from R70 and R71, the well-formedness checks,
the vectors of spec/95_test_vectors.md through one step each, and a witness for the hypotheses of every statement that
has some. Expected values are the spec's. -/

namespace Sys2Proof.Tests

open Sys2Proof Sys2Proof.Machine Sys2Proof.Safety

/-! ### Helpers -/

/-- One channel of a unit of the given capacity, with `req` in flight and its turn next. -/
def busyUnit (maxBytes : Nat) (req : Request) : State :=
  { maxFrameBytes := maxBytes, channels := [{ inFlight := some req, responses := [] }], turns := [.run 0], active := 0 }

/-- The responses on each channel after a step that has a next state. -/
def replies (o : Host.Outcome State Fault Refusal) : Option (List (List Response)) :=
  match o with
  | .next s => some (s.channels.map Channel.responses)
  | .fault _ => none
  | .refused _ => none

/-- The reason of a refusal. -/
def refusal (o : Host.Outcome State Fault Refusal) : Option Refusal :=
  match o with
  | .next _ => none
  | .fault _ => none
  | .refused r => some r

/-- The response words and results a unit of capacity 128 gives to one request. -/
def answer (cmd : Word) (o : Operand) : Option (List (List Response)) := replies (step (busyUnit 128 { cmd := cmd, operand := o }))

/-- The broadcast address, `BC` of 95_test_vectors. -/
def bc : Addr := { b0 := 0xFF, b1 := 0xFF, b2 := 0xFF, b3 := 0xFF, b4 := 0xFF, b5 := 0xFF }

/-- The address `S` of 95_test_vectors. -/
def sa : Addr := { b0 := 0xAA, b1 := 0xBB, b2 := 0xCC, b3 := 0xDD, b4 := 0xEE, b5 := 0xFF }

/-- `BC S` as bytes. -/
def bcs : List Byte := [0xFF, 0xFF, 0xFF, 0xFF, 0xFF, 0xFF, 0xAA, 0xBB, 0xCC, 0xDD, 0xEE, 0xFF]

/-- A tag `(pcp, dei, vid)`. -/
def tg (p : BitVec 3) (d : BitVec 1) (v : Half) : TagRecord := { pcp := p, dei := d, vid := v }

/-- A frame record from `BC` and `S`. -/
def fr (outer inner : Option TagRecord) (et : Half) (p : List Byte) : FrameRecord :=
  { dst := bc, src := sa, outer := outer, inner := inner, etherType := et, payload := p }

/-! ### Decoding (R70, R71): OP in bits 3:0, bits 31:4 zero -/

theorem test_decode_tagPack : decode 0b00000000000000000000000000000001#32 = .ok .tagPack := by decide
theorem test_decode_tagUnpack : decode 0b00000000000000000000000000000010#32 = .ok .tagUnpack := by decide
theorem test_decode_frameEncode : decode 0b00000000000000000000000000000011#32 = .ok .frameEncode := by decide
theorem test_decode_frameEncodeFcs : decode 0b00000000000000000000000000000100#32 = .ok .frameEncodeFcs := by decide
theorem test_decode_frameDecode : decode 0b00000000000000000000000000000101#32 = .ok .frameDecode := by decide
theorem test_decode_frameDecodeFcs : decode 0b00000000000000000000000000000110#32 = .ok .frameDecodeFcs := by decide

/-- 95_test_vectors 2.1: the reserved words. -/
theorem test_decode_reserved :
    decode 0x00000000 = .error .reservedOp ∧ decode 0x00000007 = .error .reservedOp
      ∧ decode 0x0000000F = .error .reservedOp ∧ decode 0x00000011 = .error .reservedField
      ∧ decode 0x80000005 = .error .reservedField := by decide

theorem test_decodeTableWord : decodeTableWord 32 0x00000004 = some .frameEncodeFcs
    ∧ decodeTableWord 32 0x00000011 = none ∧ decodeTableWord 4 0x5 = some .frameDecode := by decide

/-! ### Well-formedness: each check refuses an ill-formed operand -/

theorem test_wf_kind : Instr.wfOperand .tagPack 128 (.bytes [0, 0]) = false
    ∧ Instr.wfOperand .tagUnpack 128 (.tag (tg 0 0 0)) = false ∧ Instr.wfOperand .frameEncode 128 .absent = false
    ∧ Instr.wfOperand .frameEncodeFcs 128 (.bytes []) = false
    ∧ Instr.wfOperand .frameDecode 128 (.frame (fr none none 0 [])) = false
    ∧ Instr.wfOperand .frameDecodeFcs 128 .absent = false := by decide

theorem test_wf_unpack_length : Instr.wfOperand .tagUnpack 128 (.bytes [0, 0, 0]) = false
    ∧ Instr.wfOperand .tagUnpack 128 (.bytes [0, 0]) = true ∧ Instr.wfOperand .tagUnpack 1 (.bytes [0, 0]) = false := by
  decide

theorem test_wf_input_length : Instr.wfOperand .frameDecode 2 (.bytes [1, 2, 3]) = false
    ∧ Instr.wfOperand .frameDecode 3 (.bytes [1, 2, 3]) = true
    ∧ Instr.wfOperand .frameDecodeFcs 2 (.bytes [1, 2, 3]) = false
    ∧ Instr.wfOperand .frameEncode 0 (.frame (fr none none 0 [1])) = false := by decide

/-- R85: an untagged frame takes 60 bytes, 64 with the FCS. -/
theorem test_wf_result_length : Instr.wfOperand .tagPack 1 (.tag (tg 0 0 0)) = false
    ∧ Instr.wfOperand .frameEncode 59 (.frame (fr none none 0 [])) = false
    ∧ Instr.wfOperand .frameEncode 60 (.frame (fr none none 0 [])) = true
    ∧ Instr.wfOperand .frameEncodeFcs 63 (.frame (fr none none 0 [])) = false
    ∧ Instr.wfOperand .frameEncodeFcs 64 (.frame (fr none none 0 [])) = true := by decide

/-! ### One step on the vectors of 95_test_vectors -/

/-- 2.2: (1, 1, 0xABC) packs to 3A BC. -/
theorem test_tagPack : answer 1 (.tag (tg 1 1 2748)) = some [[{ rsp := 0, result := some (.bytes [0x3A, 0xBC]) }]] := by
  decide

/-- 2.2: 4095 packs, 4096 is InvalidVlanId. -/
theorem test_tagPack_identifier_bound :
    answer 1 (.tag (tg 7 1 4095)) = some [[{ rsp := 0, result := some (.bytes [0xFF, 0xFF]) }]]
      ∧ answer 1 (.tag (tg 0 0 4096)) = some [[{ rsp := 4, result := none }]] := by decide

/-- 2.3: 80 01 and 3A BC. -/
theorem test_tagUnpack : answer 2 (.bytes [0x80, 0x01]) = some [[{ rsp := 0, result := some (.tag (tg 4 0 1)) }]]
    ∧ answer 2 (.bytes [0x3A, 0xBC]) = some [[{ rsp := 0, result := some (.tag (tg 1 1 2748)) }]] := by decide

/-- E2. -/
theorem test_frameEncode_single :
    answer 3 (.frame (fr none (some (tg 3 0 1)) 0x86DD [1, 2, 3])) = some [[{ rsp := 0, result := some (.bytes
      (bcs ++ [0x81, 0x00, 0x60, 0x01, 0x86, 0xDD, 0x01, 0x02, 0x03] ++ zeros 43)) }]] := by decide +kernel

/-- E7 (stacking is checked before the identifier) and E9. -/
theorem test_frameEncode_error_order :
    answer 3 (.frame (fr (some (tg 1 0 5000)) none 0x0800 [])) = some [[{ rsp := 2, result := none }]]
      ∧ answer 3 (.frame (fr (some (tg 0 0 4096)) (some (tg 0 0 4097)) 0x0800 [])) = some [[{ rsp := 4, result := none }]] := by
  decide

/-- E3 with its FCS. -/
theorem test_frameEncodeFcs_double :
    answer 4 (.frame (fr (some (tg 5 0 100)) (some (tg 0 1 200)) 0x0800 [])) = some [[{ rsp := 0, result := some (.bytes
      (bcs ++ [0x88, 0xA8, 0xA0, 0x64, 0x81, 0x00, 0x10, 0xC8, 0x08, 0x00] ++ zeros 46 ++ [0xA1, 0x78, 0x71, 0x50])) }]] := by
  decide +kernel

/-- E8. -/
theorem test_frameEncodeFcs_identifier :
    answer 4 (.frame (fr none (some (tg 0 0 4096)) 0x0800 [])) = some [[{ rsp := 4, result := none }]] := by decide

/-- 2.6: the first 20 bytes of E3, then 81 00 00 01 02: no third tag is read. -/
theorem test_frameDecode_double :
    answer 5 (.bytes (bcs ++ [0x88, 0xA8, 0xA0, 0x64, 0x81, 0x00, 0x10, 0xC8, 0x81, 0x00, 0x00, 0x01, 0x02]))
      = some [[{ rsp := 0, result := some (.frame
          (fr (some (tg 5 0 100)) (some (tg 0 1 200)) 0x8100 [0x00, 0x01, 0x02])) }]] := by decide

/-- 2.6: E3 with bytes 16 and 17 set to 08 00: 17 bytes are truncated, 18 bytes are badly stacked. -/
theorem test_frameDecode_error_order :
    answer 5 (.bytes (bcs ++ [0x88, 0xA8, 0xA0, 0x64, 0x08])) = some [[{ rsp := 1, result := none }]]
      ∧ answer 5 (.bytes (bcs ++ [0x88, 0xA8, 0xA0, 0x64, 0x08, 0x00])) = some [[{ rsp := 2, result := none }]] := by
  decide

/-- 2.7: the bare header BC S 08 06 with its FCS. -/
theorem test_frameDecodeFcs :
    answer 6 (.bytes (bcs ++ [0x08, 0x06, 0xF0, 0xC5, 0x8C, 0x42]))
      = some [[{ rsp := 0, result := some (.frame (fr none none 0x0806 [])) }]] := by decide +kernel

/-- 2.7: the 4-byte buffers, and the FCS in the reverse byte order. -/
theorem test_frameDecodeFcs_errors :
    answer 6 (.bytes [0, 0, 0, 0]) = some [[{ rsp := 1, result := none }]]
      ∧ answer 6 (.bytes [0, 0, 0, 1]) = some [[{ rsp := 3, result := none }]]
      ∧ answer 6 (.bytes (bcs ++ [0x08, 0x06, 0x42, 0x8C, 0xC5, 0xF0])) = some [[{ rsp := 3, result := none }]] := by
  decide +kernel

/-- P1 lines 6 and 7: reserved words, no operand read. -/
theorem test_illegalOperation : answer 7 .absent = some [[{ rsp := 5, result := none }]]
    ∧ answer 0x11 (.tag (tg 0 0 0)) = some [[{ rsp := 5, result := none }]] := by decide

/-- 2.4: CRC of E1's 60 bytes. -/
theorem test_crc_of_E1 : crc32 (bcs ++ [0x08, 0x06, 0x00, 0x01] ++ zeros 44) = 0xEB8F4D39 := by decide +kernel

/-- R60, R74: requests outside the interface are refused. -/
theorem test_refusals :
    refusal (step (busyUnit 13 { cmd := 5, operand := .bytes (zeros 14) })) = some .inputTooLong
      ∧ refusal (step (busyUnit 59 { cmd := 3, operand := .frame (fr none none 0 []) })) = some .resultTooLong
      ∧ refusal (step (busyUnit 128 { cmd := 2, operand := .bytes [0] })) = some .unpackLength
      ∧ refusal (step (busyUnit 128 { cmd := 2, operand := .absent })) = some .operandKind := by decide

/-- R241: a request in progress when reset is asserted has no response. -/
theorem test_reset_abandons :
    replies (step { busyUnit 128 { cmd := 2, operand := .bytes [0, 0] } with turns := [.reset] }) = some [[]] := by decide

/-- The first step after reset runs a word placed by `withFetchWord`. -/
theorem test_fetch_after_reset :
    (replies (step (State.reset.withFetchWord 32 4))).isSome = true
      ∧ replies (step (State.reset.withFetchWord 32 0)) = some [[{ rsp := 5, result := none }]] := by decide +kernel

/-- R88: the textual forms of P1 line 1, P2 line 1 and P3 line 6. -/
theorem test_asm :
    asm { cmd := 1, operand := .tag (tg 5 0 100) } = some "tag.pack pcp=5, dei=0, vid=100"
      ∧ asm { cmd := 2, operand := .bytes [0xA0, 0x64] } = some "tag.unpack A0 64"
      ∧ asm { cmd := 4, operand := .frame (fr none none 0x0806 [0x00, 0x01]) }
          = some "frame.enc.fcs dst=FF:FF:FF:FF:FF:FF, src=AA:BB:CC:DD:EE:FF, type=0x0806, payload=[00 01]"
      ∧ asm { cmd := 7, operand := .absent } = none := by decide +kernel

/-! ### Witnesses: a concrete state and operands that meet all hypotheses of a statement together -/

/-- A request for each operation, inside the interface of a unit of capacity 128. -/
def packReq : Request := { cmd := 1, operand := .tag (tg 5 0 100) }
def unpackReq : Request := { cmd := 2, operand := .bytes [0xA0, 0x64] }
def encodeReq (F : FrameRecord) : Request := { cmd := 3, operand := .frame F }
def decodeReq (b : List Byte) : Request := { cmd := 5, operand := .bytes b }

/-- Two channels: channel 0 idle, channel 1 with `req` in flight. -/
def twoChannels (req : Request) (turns : List Turn) : State :=
  { maxFrameBytes := 128
    channels := [{ inFlight := none, responses := [] }, { inFlight := some req, responses := [] }]
    turns := turns, active := 0 }

theorem witness_CommandWordsOfTable : (0 : BitVec 4) = 0 ∧ 7 ≤ (7 : BitVec 4).toNat ∧ 7 ≤ (15 : BitVec 4).toNat := by decide

theorem witness_ReservedCommandAnswersIllegalOperation_field :
    (twoChannels { cmd := 0x11, operand := .absent } [.run 1]).plan = .perform 1 []
      ∧ (twoChannels { cmd := 0x11, operand := .absent } [.run 1]).inFlightOn 1 = some { cmd := 0x11, operand := .absent }
      ∧ (0x11 : Word).extractLsb' 4 28 ≠ 0 := by decide
theorem witness_ReservedCommandAnswersIllegalOperation_zero :
    (busyUnit 128 { cmd := 0, operand := .absent }).plan = .perform 0 []
      ∧ (busyUnit 128 { cmd := 0, operand := .absent }).inFlightOn 0 = some { cmd := 0, operand := .absent }
      ∧ (0 : Word).extractLsb' 0 4 = 0 := by decide
theorem witness_ReservedCommandAnswersIllegalOperation_high :
    (busyUnit 128 { cmd := 7, operand := .absent }).plan = .perform 0 []
      ∧ (busyUnit 128 { cmd := 7, operand := .absent }).inFlightOn 0 = some { cmd := 7, operand := .absent }
      ∧ 7 ≤ ((7 : Word).extractLsb' 0 4).toNat := by decide

theorem witness_StepRunsTheDecodedOperation :
    (busyUnit 128 packReq).plan = .perform 0 [] ∧ (busyUnit 128 packReq).inFlightOn 0 = some packReq
      ∧ decode packReq.cmd = .ok .tagPack := by decide

theorem witness_PlanPerformsBusyChannels :
    (∃ rest, (twoChannels packReq [.run 1]).inFlightOn 1 = some packReq ∧ (twoChannels packReq [.run 1]).turns = .run 1 :: rest)
      ∧ (∃ nx rest, (twoChannels packReq [.issue 1 unpackReq]).inFlightOn 1 = some packReq
          ∧ (twoChannels packReq [.issue 1 unpackReq]).turns = .issue 1 nx :: rest)
      ∧ ((twoChannels packReq []).inFlightOn 1 = some packReq ∧ (twoChannels packReq []).turns = []
          ∧ ∀ j, j < 1 → (twoChannels packReq []).inFlightOn j = none) :=
  ⟨⟨[], by decide⟩, ⟨unpackReq, [], by decide⟩, by decide⟩

theorem witness_IssueCapturesOrWaits_idle :
    (twoChannels packReq [.issue 0 unpackReq]).turns = [.issue 0 unpackReq]
      ∧ (twoChannels packReq [.issue 0 unpackReq]).channels[0]? = some { inFlight := none, responses := [] } := by decide
theorem witness_IssueCapturesOrWaits_busy :
    (twoChannels packReq [.issue 1 unpackReq]).turns = [.issue 1 unpackReq]
      ∧ (twoChannels packReq [.issue 1 unpackReq]).channels[1]? = some { inFlight := some packReq, responses := [] }
      ∧ (some packReq).isSome = true ∧ ∃ t, step (twoChannels packReq [.issue 1 unpackReq]) = .next t :=
  ⟨by decide, by decide, by decide, _, rfl⟩

theorem witness_TurnsWithNothingToDoChangeNothing :
    ((twoChannels packReq [.run 0]).turns = [.run 0] ∧ 0 < (twoChannels packReq [.run 0]).channels.length
        ∧ (twoChannels packReq [.run 0]).inFlightOn 0 = none)
      ∧ ((State.resetWith 128 0).turns = [] ∧ ∀ j, (State.resetWith 128 0).inFlightOn j = none)
      ∧ ((twoChannels packReq [.run 2]).channels.length ≤ 2 ∧ (twoChannels packReq [.run 2]).turns = [.run 2])
      ∧ ∃ req, (twoChannels packReq [.issue 2 unpackReq]).turns = [.issue 2 req] :=
  ⟨by decide, ⟨rfl, fun _ => rfl⟩, by decide, _, rfl⟩

theorem witness_ResetAbandonsRequestsInProgress : (twoChannels packReq [.reset]).turns = [.reset]
    ∧ (twoChannels packReq [.reset]).channels[1]? = some { inFlight := some packReq, responses := [] } := by decide

theorem witness_EveryChannelIdleAfterReset : 1 < (2 : Nat) := by decide

theorem witness_StepKeepsTheParameters : ∃ t, step (busyUnit 128 packReq) = .next t := ⟨_, rfl⟩

theorem witness_LegalAfterReset : 1 ≤ (1 : Nat) := by decide

theorem witness_StepKeepsEveryResponseLegal : LegalState (busyUnit 128 packReq)
    ∧ ∃ t, step (busyUnit 128 packReq) = .next t := ⟨by decide, _, rfl⟩

theorem witness_ExecChangesOnlyActiveChannel : ∃ t, exec .tagPack (busyUnit 128 packReq) = .next t := ⟨_, rfl⟩

theorem witness_OutcomeDependsOnRequestAlone :
    let s := busyUnit 128 packReq
    let t := { twoChannels packReq [] with active := 1 }
    s.request = t.request ∧ s.maxFrameBytes = t.maxFrameBytes ∧ ∃ s', exec .tagPack s = .next s' :=
  ⟨by decide, by decide, _, rfl⟩
theorem witness_OutcomeDependsOnRequestAlone_refused :
    let s := busyUnit 128 packReq
    let t := { twoChannels packReq [] with active := 1 }
    s.request = t.request ∧ s.maxFrameBytes = t.maxFrameBytes ∧ exec .tagUnpack s = .refused .operandKind :=
  ⟨by decide, by decide, rfl⟩

theorem witness_OperationsRaiseOnlyTheirErrors :
    let s := busyUnit 128 { cmd := 1, operand := .tag (tg 0 0 4096) }
    exec .tagPack s = .next (s.deliver (errResponse .invalidVlanId)) := rfl

theorem witness_EveryOperationAnswersWithinInterface :
    (Presents (busyUnit 128 packReq) packReq.operand ∧ Instr.wfOperand .tagPack 128 packReq.operand = true)
      ∧ (Presents (busyUnit 128 unpackReq) unpackReq.operand ∧ Instr.wfOperand .tagUnpack 128 unpackReq.operand = true)
      ∧ (Presents (busyUnit 128 (encodeReq (fr none none 0 []))) (.frame (fr none none 0 []))
          ∧ Instr.wfOperand .frameEncode 128 (.frame (fr none none 0 [])) = true
          ∧ Instr.wfOperand .frameEncodeFcs 128 (.frame (fr none none 0 [])) = true)
      ∧ (Presents (busyUnit 128 (decodeReq [])) (.bytes []) ∧ Instr.wfOperand .frameDecode 128 (.bytes []) = true
          ∧ Instr.wfOperand .frameDecodeFcs 128 (.bytes []) = true) := by decide

theorem witness_RequestWithinInterfaceIsAnswered :
    (busyUnit 128 packReq).plan = .perform 0 [] ∧ (busyUnit 128 packReq).inFlightOn 0 = some packReq
      ∧ withinInterface 128 packReq = true ∧ withinInterface 0 { cmd := 7, operand := .bytes [1] } = true := by decide

theorem witness_RequestBeyondCapacityIsRefused :
    (Presents (busyUnit 2 (decodeReq [1, 2, 3])) (.bytes [1, 2, 3]) ∧ 2 < [1, 2, 3].length)
      ∧ (Presents (busyUnit 0 (encodeReq (fr none none 0 [1]))) (.frame (fr none none 0 [1])) ∧ 0 < (fr none none 0 [1]).payload.length)
      ∧ (Presents (busyUnit 59 (encodeReq (fr none none 0 []))) (.frame (fr none none 0 [])) ∧ (fr none none 0 []).payload.length ≤ 59
          ∧ accepted (fr none none 0 []) = true ∧ 59 < (fr none none 0 []).encodedLength ∧ 59 < (fr none none 0 []).encodedLength + 4)
      ∧ (Presents (busyUnit 1 packReq) (.tag (tg 5 0 100)) ∧ (tg 5 0 100).vid.toNat ≤ 4095 ∧ 1 < 2) := by decide

theorem witness_ForeignOperandIsRefused :
    (Presents (busyUnit 128 (decodeReq [1])) (.bytes [1]) ∧ [1].length ≤ 128 ∧ [1].length ≠ 2)
      ∧ (Presents (busyUnit 128 packReq) (.tag (tg 5 0 100)) ∧ Instr.tagUnpack ≠ .tagPack)
      ∧ (Presents (busyUnit 128 (encodeReq (fr none none 0 []))) (.frame (fr none none 0 [])) ∧ Instr.tagPack ≠ .frameEncode
          ∧ Instr.tagPack ≠ .frameEncodeFcs)
      ∧ Presents (busyUnit 128 { cmd := 1, operand := .absent }) .absent := by decide

theorem witness_TagPackAnswersControlField :
    (Presents (busyUnit 2 { cmd := 1, operand := .tag (tg 0 0 4095) }) (.tag (tg 0 0 4095)) ∧ (tg 0 0 4095).vid.toNat ≤ 4095 ∧ 2 ≤ 2)
      ∧ (Presents (busyUnit 2 { cmd := 1, operand := .tag (tg 0 0 4096) }) (.tag (tg 0 0 4096)) ∧ 4095 < (tg 0 0 4096).vid.toNat) := by
  decide

theorem witness_TagUnpackAnswersTagRecord : Presents (busyUnit 2 unpackReq) (.bytes [0xA0, 0x64]) ∧ 2 ≤ 2 := by decide

theorem witness_TagCodecIsLossless : (tg 7 1 4095).vid.toNat ≤ 4095 ∧ ([0xFF, 0xFF] : List Byte).length = 2 := by decide

/-- Double-tagged, single-tagged and untagged records at the smallest capacity that fits them. -/
theorem witness_FrameEncodeAnswersLayout :
    let F2 := fr (some (tg 5 0 100)) (some (tg 0 1 4095)) 0x0800 []
    let F0 := fr none none 0x8100 [1]
    (Presents (busyUnit 68 (encodeReq F2)) (.frame F2) ∧ accepted F2 = true ∧ F2.payload.length ≤ 68 ∧ F2.encodedLength ≤ 68)
      ∧ (Presents (busyUnit 60 (encodeReq F0)) (.frame F0) ∧ accepted F0 = true ∧ F0.payload.length ≤ 60 ∧ F0.encodedLength ≤ 60) := by
  decide

theorem witness_FrameEncodeFcsAnswersLayoutAndFcs :
    let F := fr none (some (tg 3 0 1)) 0x86DD [1, 2, 3]
    Presents (busyUnit 68 (encodeReq F)) (.frame F) ∧ accepted F = true ∧ F.payload.length ≤ 68 ∧ F.encodedLength + 4 ≤ 68 := by
  decide

theorem witness_EncodeChecksStackingThenIdentifiers :
    let F := fr (some (tg 1 0 5000)) none 0x0800 []
    let G := fr none (some (tg 0 0 4096)) 0x0800 []
    (Presents (busyUnit 0 (encodeReq F)) (.frame F) ∧ F.payload.length ≤ 0 ∧ F.outer ≠ none ∧ F.inner = none)
      ∧ (Presents (busyUnit 0 (encodeReq G)) (.frame G) ∧ ¬(G.outer ≠ none ∧ G.inner = none)
          ∧ G.inner = some (tg 0 0 4096) ∧ 4095 < (tg 0 0 4096).vid.toNat) := by decide

theorem witness_EncodedLengthIsHeaderPlusPaddedPayload :
    encodeFrame (fr none none 0 []) = .ok (bcs ++ zeros 48) := by decide +kernel

theorem witness_FcsDetectsEverySingleBitFlip : 3 < (appendFCS []).length := by decide

theorem witness_FrameDecodeOfShortBufferIsTruncated :
    Presents (busyUnit 13 (decodeReq (zeros 13))) (.bytes (zeros 13)) ∧ (zeros 13).length ≤ 13 ∧ (zeros 13).length < 14 := by decide

theorem witness_FrameDecodeAnswersUntaggedFrame :
    Presents (busyUnit 15 (decodeReq (bcs ++ [0x81, 0x01, 7]))) (.bytes (addrBytes bc ++ addrBytes sa ++ halfBytes 0x8101 ++ [7]))
      ∧ 14 + [7].length ≤ 15 ∧ (0x8101 : Half) ≠ 0x88A8 ∧ (0x8101 : Half) ≠ 0x8100 := by decide

theorem witness_FrameDecodeAnswersSingleTaggedFrame :
    (Presents (busyUnit 18 (decodeReq (bcs ++ [0x81, 0x00, 0x00, 0x0A, 0x88, 0xA8])))
        (.bytes (addrBytes bc ++ addrBytes sa ++ [0x81, 0x00, 0x00, 0x0A] ++ halfBytes 0x88A8 ++ [])))
      ∧ (Presents (busyUnit 17 (decodeReq (bcs ++ [0x81, 0x00, 0, 0, 0]))) (.bytes (bcs ++ [0x81, 0x00, 0, 0, 0]))
          ∧ fieldAt (bcs ++ [0x81, 0x00, 0, 0, 0]) 12 = 0x8100) := by decide

theorem witness_FrameDecodeAnswersDoubleTaggedFrame :
    let good := bcs ++ [0x88, 0xA8, 0xA0, 0x64, 0x81, 0x00, 0x10, 0xC8, 0x81, 0x00]
    let bad := bcs ++ [0x88, 0xA8, 0xA0, 0x64, 0x08, 0x00]
    Presents (busyUnit 22 (decodeReq good)) (.bytes (addrBytes bc ++ addrBytes sa
        ++ [0x88, 0xA8, 0xA0, 0x64, 0x81, 0x00, 0x10, 0xC8] ++ halfBytes 0x8100 ++ []))
      ∧ (Presents (busyUnit 17 (decodeReq (good.take 17))) (.bytes (good.take 17)) ∧ (good.take 17).length ≤ 17
          ∧ fieldAt (good.take 17) 12 = 0x88A8 ∧ (good.take 17).length < 18 ∧ 14 ≤ (good.take 17).length)
      ∧ (Presents (busyUnit 18 (decodeReq bad)) (.bytes bad) ∧ bad.length ≤ 18
          ∧ fieldAt bad 12 = 0x88A8 ∧ 18 ≤ bad.length ∧ fieldAt bad 16 ≠ 0x8100)
      ∧ (Presents (busyUnit 21 (decodeReq (good.take 21))) (.bytes (good.take 21)) ∧ (good.take 21).length ≤ 21
          ∧ fieldAt (good.take 21) 12 = 0x88A8 ∧ 18 ≤ (good.take 21).length ∧ (good.take 21).length < 22
          ∧ fieldAt (good.take 21) 16 = 0x8100) := by decide

theorem witness_FrameDecodeFcsVerifiesThenDecodes :
    let header := bcs ++ [0x08, 0x06]
    (Presents (busyUnit 3 (decodeReq [0, 0, 0])) (.bytes [0, 0, 0]))
      ∧ (Presents (busyUnit 18 (decodeReq (header ++ wordBytes 0xF0C58C42))) (.bytes (header ++ wordBytes 0xF0C58C42))
          ∧ crc32 header = 0xF0C58C42 ∧ decodeFrame header = .ok (fr none none 0x0806 []))
      ∧ (Presents (busyUnit 4 (decodeReq [0, 0, 0, 1])) (.bytes ([] ++ wordBytes 1)) ∧ crc32 [] ≠ 1)
      ∧ (Presents (busyUnit 4 (decodeReq [0, 0, 0, 0])) (.bytes ([] ++ wordBytes 0)) ∧ crc32 [] = 0
          ∧ decodeFrame [] = .error .truncatedFrame) := by decide +kernel

theorem witness_DecodedFrameIsWellFormed :
    let header := bcs ++ [0x08, 0x06]
    decodeFrame header = .ok (fr none none 0x0806 [])
      ∧ decodeFrameFCS (header ++ [0xF0, 0xC5, 0x8C, 0x42]) = .ok (fr none none 0x0806 []) := by decide +kernel

theorem witness_DecodeOfEncodeGivesPaddedFrame :
    let F := fr (some (tg 5 0 100)) (some (tg 0 1 200)) 0x8100 [1]
    let G := fr none none 0x0806 []
    (accepted F = true ∧ F.inner ≠ none) ∧ (accepted G = true ∧ G.etherType ≠ 0x8100 ∧ G.etherType ≠ 0x88A8) := by decide

theorem witness_FcsRoundTripHasSameOutcome :
    encodeFrame (fr none none 0x0806 []) = .ok (bcs ++ [0x08, 0x06] ++ zeros 46) := by decide +kernel

theorem witness_UntaggedDiscriminatorIsMisread :
    let F := fr none none 0x8100 [0x20, 0x05, 0x08, 0x00]
    let G := fr none none 0x88A8 [0x00, 0x07, 0x12, 0x34]
    let H := fr none none 0x88A8 [0x00, 0x07, 0x81, 0x00]
    (padded F).payload = 0x20 :: 0x05 :: 0x08 :: 0x00 :: zeros 42
      ∧ (padded G).payload = 0x00 :: 0x07 :: 0x12 :: 0x34 :: zeros 42 ∧ (0x12 : Byte) ++ (0x34 : Byte) ≠ (0x8100 : Half)
      ∧ (padded H).payload = 0x00 :: 0x07 :: 0x81 :: 0x00 :: zeros 42 ∧ (0x81 : Byte) ++ (0x00 : Byte) = (0x8100 : Half) := by
  decide +kernel

theorem witness_RequestsAnsweredInIssueOrder :
    let reqs := [packReq, { cmd := 7, operand := .absent }]
    let s := twoChannels unpackReq [.issue 0 packReq, .run 0, .issue 0 { cmd := 7, operand := .absent }, .run 0, .run 1]
    s.channels[0]? = some { inFlight := none, responses := [] }
      ∧ (∀ req ∈ reqs, withinInterface s.maxFrameBytes req = true)
      ∧ s.turns = reqs.flatMap (fun req => [.issue 0 req, .run 0]) ++ [.run 1] := by decide

theorem witness_OtherChannelsDoNotMatter :
    ∃ s', runSteps 2 (twoChannels packReq [.issue 0 unpackReq, .run 0]) = .next s' := ⟨_, rfl⟩

theorem witness_RequestsInFlightAreAllAnswered :
    (twoChannels packReq []).turns = [] ∧ ∀ c ∈ (twoChannels packReq []).channels, ∀ req, c.inFlight = some req →
      withinInterface (twoChannels packReq []).maxFrameBytes req = true := by
  refine ⟨rfl, fun c hc req h => ?_⟩
  have hc : c = { inFlight := none, responses := [] } ∨ c = { inFlight := some packReq, responses := [] } := by
    simpa [twoChannels] using hc
  rcases hc with rfl | rfl
  · simp at h
  · obtain rfl : packReq = req := by simpa using h
    decide

end Sys2Proof.Tests
end

section
/-! The two claims of 00_scope.md: no step changes the parameters, and a request inside the unit's interface is answered
by the step that performs it. The lemmas before them say what a meaning can answer, how long a successful result is, and
that every operation answers an operand inside its interface. -/

namespace Sys2Proof.Proofs

open Sys2Proof Sys2Proof.Machine Sys2Proof.Safety Sys2Proof.Laws

/-! ### What an operation or a step can answer -/

/-- A meaning that has a next state has delivered one response: raising and returning are its only ways to end. -/
theorem exec_next {i : Instr} {s t : State} (h : exec i s = .next t) : ∃ r, t = s.deliver r := by
  obtain ⟨α, operand, op, hi⟩ := exec_is_perform i s
  rw [hi] at h
  obtain ⟨x, -, hp⟩ | ⟨a, e, -, -, hp⟩ | ⟨a, r, -, -, -, hp⟩ | ⟨a, r, -, -, -, hp⟩ := perform_cases operand op s <;>
    rw [hp] at h
  · cases h
  · exact ⟨_, (Host.Outcome.next.inj h).symm⟩
  · exact ⟨_, (Host.Outcome.next.inj h).symm⟩
  · cases h

theorem runRequest_of_idle {s : State} (h : s.request = none) : runRequest s = .refused .noRequest := by
  simp [runRequest, fetch, h]

theorem runRequest_next {s t : State} (h : runRequest s = .next t) : ∃ r, t = s.deliver r := by
  cases hreq : s.request with
  | none => rw [runRequest_of_idle hreq] at h; cases h
  | some req =>
    obtain ⟨i, -, hrun⟩ | ⟨x, -, hrun⟩ := runRequest_cases hreq <;> rw [hrun] at h
    · exact exec_next h
    · exact ⟨_, (Host.Outcome.next.inj h).symm⟩

theorem step_of_perform {s : State} {k : Nat} {ts : List Turn} (h : s.plan = .perform k ts) :
    step s = runRequest (s.select k ts) := by
  simp [step, h]

/-- An operation that gets its operand answers, provided every result it can succeed with fits the capacity. -/
theorem perform_answers {α : Type} {operand : Except Refusal α} {op : α → Except Err Result} {s : State} {a : α}
    (ha : operand = .ok a) (hfit : ∀ r, op a = .ok r → resultBytes r ≤ s.maxFrameBytes) :
    ∃ r, perform operand op s = .next (s.deliver r) := by
  cases hop : op a with
  | error e => exact ⟨_, perform_raises ha hop⟩
  | ok r => exact ⟨_, perform_returns ha hop (hfit r hop)⟩

/-! ### Success of a computation that can raise -/

theorem bind_eq_ok {α β : Type} {x : Except Err α} {f : α → Except Err β} {b : β} :
    (x >>= f) = .ok b ↔ ∃ a, x = .ok a ∧ f a = .ok b := by
  cases x <;> simp [bind, Except.bind]

theorem map_eq_ok {α β : Type} {x : Except Err α} {f : α → β} {b : β} :
    x.map f = .ok b ↔ ∃ a, x = .ok a ∧ f a = b := by
  cases x <;> simp [Except.map]

/-! ### How long a successful result is -/

theorem length_packTCI {t : TagRecord} {w : List Byte} (h : packTCI t = .ok w) : w.length = 2 := by
  obtain ⟨-, w', hw, hlen⟩ | ⟨-, herr⟩ := packTCI_cases t
  · rw [hw] at h; cases h; exact hlen
  · rw [herr] at h; cases h

theorem length_packPresent {t : Option TagRecord} {w : List Byte} (h : packPresent t = .ok w) (ht : t.isSome) :
    w.length = 2 := by
  cases t with
  | none => cases ht
  | some t => exact length_packTCI h

/-- When the encoder succeeds: its checks passed, and its bytes are those of `fillFrame`. -/
theorem encodeFrame_ok {F : FrameRecord} {b : List Byte} (h : encodeFrame F = .ok b) :
    (F.outer.isSome && F.inner.isNone) = false ∧ ∃ otci itci, packPresent F.outer = .ok otci
      ∧ packPresent F.inner = .ok itci ∧ b = fillFrame F otci itci := by
  unfold encodeFrame at h
  split at h
  · cases h
  · next hs =>
    obtain ⟨otci, ho, h⟩ := bind_eq_ok.mp h
    obtain ⟨itci, hi, h⟩ := bind_eq_ok.mp h
    exact ⟨eq_false_of_ne_true hs, otci, itci, ho, hi, (Except.ok.inj h).symm⟩

theorem off_putTag (present : Bool) (d : Half) (tci : List Byte) (w : Writer) :
    (putTag present d tci w).off = w.off + 4 * present.toNat := by
  cases present <;> rfl

/-- Writing a tag layer inside the buffer keeps the buffer's length. -/
theorem length_out_putTag {present : Bool} {tci : List Byte} {w : Writer} (d : Half)
    (htci : present → tci.length = 2) (hroom : w.off + 4 * present.toNat ≤ w.out.length) :
    (putTag present d tci w).out.length = w.out.length := by
  cases present with
  | false => rfl
  | true =>
    have h2 : tci.length = 2 := htci rfl
    have hroom : w.off + 4 ≤ w.out.length := hroom
    have hd : (memWrite w.out w.off 2 d.toNat).length = w.out.length := length_memWrite _ (by omega)
    have ht := length_writeBytes (out := memWrite w.out w.off 2 d.toNat) (b := tci) (off := w.off + 2) (by omega)
    exact ht.trans hd

theorem tagCount_eq (F : FrameRecord) : F.tagCount = F.outer.isSome.toNat + F.inner.isSome.toNat := by
  cases ho : F.outer <;> cases hi : F.inner <;> simp [FrameRecord.tagCount, ho, hi]

/-- Every write of the encoder is inside the buffer (R52), so the encoding has the buffer's length (R142). -/
theorem length_fillFrame {F : FrameRecord} {otci itci : List Byte} (ho : F.outer.isSome → otci.length = 2)
    (hi : F.inner.isSome → itci.length = 2) : (fillFrame F otci itci).length = F.encodedLength := by
  have hcount := tagCount_eq F
  unfold fillFrame
  extract_lets N w wOuter wInner
  have hN : N = 14 + 4 * F.outer.isSome.toNat + 4 * F.inner.isSome.toNat + max F.payload.length 46 := by
    simp only [N, hcount, Config.minPayload]
    omega
  have hmax : F.payload.length ≤ max F.payload.length 46 := le_max_left _ _
  have hdst : (writeBytes (zeros N) 0 (addrBytes F.dst)).length = N := by
    rw [length_writeBytes (by simp; omega), length_zeros]
  have hw : w.out.length = N := (length_writeBytes (by simp [hdst]; omega)).trans hdst
  have hoffOuter : wOuter.off = 12 + 4 * F.outer.isSome.toNat := off_putTag ..
  have hOuter : wOuter.out.length = N := (length_out_putTag _ ho (by rw [hw]; simp only [w]; omega)).trans hw
  have hoffInner : wInner.off = wOuter.off + 4 * F.inner.isSome.toNat := off_putTag ..
  have hInner : wInner.out.length = N := (length_out_putTag _ hi (by omega)).trans hOuter
  have htype : (memWrite wInner.out wInner.off 2 F.etherType.toNat).length = N :=
    (length_memWrite _ (by omega)).trans hInner
  rw [length_writeBytes (by omega), htype, hN, FrameRecord.encodedLength, FrameRecord.headerLength, hcount,
    Config.minPayload]
  omega

/-- The length of an encoding (R85, R142). -/
theorem length_encodeFrame {F : FrameRecord} {b : List Byte} (h : encodeFrame F = .ok b) :
    b.length = F.encodedLength := by
  obtain ⟨-, otci, itci, ho, hi, rfl⟩ := encodeFrame_ok h
  exact length_fillFrame (length_packPresent ho) (length_packPresent hi)

theorem length_appendFCS (b : List Byte) : (appendFCS b).length = b.length + 4 := by
  simp [appendFCS]

theorem length_encodeFrameFCS {F : FrameRecord} {b : List Byte} (h : encodeFrameFCS F = .ok b) :
    b.length = F.encodedLength + 4 := by
  obtain ⟨c, hc, rfl⟩ := map_eq_ok.mp h
  rw [length_appendFCS, length_encodeFrame hc]

/-- A decoded payload is the rest of the buffer after a header. -/
theorem payload_of_decodeFrame {buf : List Byte} {F : FrameRecord} (h : decodeFrame buf = .ok F) :
    ∃ hdr, F.payload = buf.drop hdr := by
  unfold decodeFrame at h
  split at h
  · cases h
  · obtain ⟨dst, -, h⟩ := bind_eq_ok.mp h
    obtain ⟨src, -, h⟩ := bind_eq_ok.mp h
    obtain ⟨f12, -, h⟩ := bind_eq_ok.mp h
    obtain ⟨header, -, h⟩ := bind_eq_ok.mp h
    cases h
    exact ⟨_, rfl⟩

theorem payload_length_decodeFrame_le {buf : List Byte} {F : FrameRecord} (h : decodeFrame buf = .ok F) :
    F.payload.length ≤ buf.length := by
  obtain ⟨hdr, hp⟩ := payload_of_decodeFrame h
  simp [hp]

theorem length_verifyFCS_le {buf body : List Byte} (h : verifyFCS buf = .ok body) : body.length ≤ buf.length := by
  obtain ⟨-, herr⟩ | ⟨body', fcs, rfl, -, ⟨-, hok⟩ | ⟨-, herr⟩⟩ := verifyFCS_cases buf
  · rw [herr] at h; cases h
  · rw [hok] at h; cases h; simp
  · rw [herr] at h; cases h

theorem payload_length_decodeFrameFCS_le {buf : List Byte} {F : FrameRecord} (h : decodeFrameFCS buf = .ok F) :
    F.payload.length ≤ buf.length := by
  obtain ⟨body, hv, hd⟩ := bind_eq_ok.mp h
  exact (payload_length_decodeFrame_le hd).trans (length_verifyFCS_le hv)

/-! ### The operand forms on an operand of their kind that fits -/

theorem asTag_tag (t : TagRecord) : asTag (.tag t) = .ok t := rfl

theorem asBuffer_bytes {m : Nat} {b : List Byte} (h : b.length ≤ m) : asBuffer m (.bytes b) = .ok b := by
  simp [asBuffer, h]

theorem asTwoBytes_bytes {m : Nat} {b : List Byte} (h2 : b.length = 2) (h : b.length ≤ m) :
    asTwoBytes m (.bytes b) = .ok b := by
  simp [asTwoBytes, asBuffer_bytes h, h2]

theorem asFrame_frame {m : Nat} {F : FrameRecord} (h : F.payload.length ≤ m) : asFrame m (.frame F) = .ok F := by
  simp [asFrame, h]

/-! ### When an operand is inside an operation's interface -/

section wfOperand

variable {m : Nat} {o : Operand}

theorem wfOperand_tagPack_iff : Instr.tagPack.wfOperand m o = true ↔ ∃ t, o = .tag t ∧ 2 ≤ m := by
  cases o <;> simp [Instr.wfOperand]

theorem wfOperand_tagUnpack_iff :
    Instr.tagUnpack.wfOperand m o = true ↔ ∃ b, o = .bytes b ∧ b.length = 2 ∧ b.length ≤ m := by
  cases o <;> simp [Instr.wfOperand]

theorem wfOperand_frameEncode_iff : Instr.frameEncode.wfOperand m o = true
    ↔ ∃ F, o = .frame F ∧ F.payload.length ≤ m ∧ F.encodedLength ≤ m := by
  cases o <;> simp [Instr.wfOperand]

theorem wfOperand_frameEncodeFcs_iff : Instr.frameEncodeFcs.wfOperand m o = true
    ↔ ∃ F, o = .frame F ∧ F.payload.length ≤ m ∧ F.encodedLength + Config.fcsBytes ≤ m := by
  cases o <;> simp [Instr.wfOperand, -Config.fcsBytes]

theorem wfOperand_frameDecode_iff :
    Instr.frameDecode.wfOperand m o = true ↔ ∃ b, o = .bytes b ∧ b.length ≤ m := by
  cases o <;> simp [Instr.wfOperand]

theorem wfOperand_frameDecodeFcs_iff :
    Instr.frameDecodeFcs.wfOperand m o = true ↔ ∃ b, o = .bytes b ∧ b.length ≤ m := by
  cases o <;> simp [Instr.wfOperand]

end wfOperand

/-! ### Every operation answers an operand inside its interface -/

section answers

variable {s : State}

theorem tagPack_answers {t : TagRecord} (ho : Presents s (.tag t)) (hcap : 2 ≤ s.maxFrameBytes) :
    ∃ r, exec .tagPack s = .next (s.deliver r) := by
  refine perform_answers ((tagOperand_eq ho).trans (asTag_tag t)) fun r hr => ?_
  obtain ⟨w, hw, rfl⟩ := map_eq_ok.mp hr
  exact (length_packTCI hw).trans_le hcap

theorem tagUnpack_answers {b : List Byte} (ho : Presents s (.bytes b)) (h2 : b.length = 2)
    (hcap : b.length ≤ s.maxFrameBytes) : ∃ r, exec .tagUnpack s = .next (s.deliver r) := by
  refine perform_answers ((twoBytesOperand_eq ho).trans (asTwoBytes_bytes h2 hcap)) fun r hr => ?_
  cases hr
  exact Nat.zero_le _

theorem frameEncode_answers {F : FrameRecord} (ho : Presents s (.frame F)) (hin : F.payload.length ≤ s.maxFrameBytes)
    (hcap : F.encodedLength ≤ s.maxFrameBytes) : ∃ r, exec .frameEncode s = .next (s.deliver r) := by
  refine perform_answers ((frameOperand_eq ho).trans (asFrame_frame hin)) fun r hr => ?_
  obtain ⟨b, hb, rfl⟩ := map_eq_ok.mp hr
  exact (length_encodeFrame hb).trans_le hcap

theorem frameEncodeFcs_answers {F : FrameRecord} (ho : Presents s (.frame F))
    (hin : F.payload.length ≤ s.maxFrameBytes) (hcap : F.encodedLength + 4 ≤ s.maxFrameBytes) :
    ∃ r, exec .frameEncodeFcs s = .next (s.deliver r) := by
  refine perform_answers ((frameOperand_eq ho).trans (asFrame_frame hin)) fun r hr => ?_
  obtain ⟨b, hb, rfl⟩ := map_eq_ok.mp hr
  exact (length_encodeFrameFCS hb).trans_le hcap

theorem frameDecode_answers {b : List Byte} (ho : Presents s (.bytes b)) (hcap : b.length ≤ s.maxFrameBytes) :
    ∃ r, exec .frameDecode s = .next (s.deliver r) := by
  refine perform_answers ((bufferOperand_eq ho).trans (asBuffer_bytes hcap)) fun r hr => ?_
  obtain ⟨F, hF, rfl⟩ := map_eq_ok.mp hr
  exact (payload_length_decodeFrame_le hF).trans hcap

theorem frameDecodeFcs_answers {b : List Byte} (ho : Presents s (.bytes b)) (hcap : b.length ≤ s.maxFrameBytes) :
    ∃ r, exec .frameDecodeFcs s = .next (s.deliver r) := by
  refine perform_answers ((bufferOperand_eq ho).trans (asBuffer_bytes hcap)) fun r hr => ?_
  obtain ⟨F, hF, rfl⟩ := map_eq_ok.mp hr
  exact (payload_length_decodeFrameFCS_le hF).trans hcap

theorem exec_answers {i : Instr} {o : Operand} (ho : Presents s o) (hwf : i.wfOperand s.maxFrameBytes o = true) :
    ∃ r, exec i s = .next (s.deliver r) := by
  cases i with
  | tagPack =>
    obtain ⟨t, rfl, hcap⟩ := wfOperand_tagPack_iff.mp hwf
    exact tagPack_answers ho hcap
  | tagUnpack =>
    obtain ⟨b, rfl, h2, hcap⟩ := wfOperand_tagUnpack_iff.mp hwf
    exact tagUnpack_answers ho h2 hcap
  | frameEncode =>
    obtain ⟨F, rfl, hin, hcap⟩ := wfOperand_frameEncode_iff.mp hwf
    exact frameEncode_answers ho hin hcap
  | frameEncodeFcs =>
    obtain ⟨F, rfl, hin, hcap⟩ := wfOperand_frameEncodeFcs_iff.mp hwf
    exact frameEncodeFcs_answers ho hin hcap
  | frameDecode =>
    obtain ⟨b, rfl, hcap⟩ := wfOperand_frameDecode_iff.mp hwf
    exact frameDecode_answers ho hcap
  | frameDecodeFcs =>
    obtain ⟨b, rfl, hcap⟩ := wfOperand_frameDecodeFcs_iff.mp hwf
    exact frameDecodeFcs_answers ho hcap

/-- A request inside the interface is answered when it is performed: a reserved word by IllegalOperation. -/
theorem runRequest_answers {req : Request} (hreq : s.request = some req)
    (hin : withinInterface s.maxFrameBytes req = true) : ∃ r, runRequest s = .next (s.deliver r) := by
  obtain ⟨i, hd, hrun⟩ | ⟨x, hd, hrun⟩ := runRequest_cases hreq
  · have hwf : i.wfOperand s.maxFrameBytes req.operand = true := by simpa [withinInterface, hd] using hin
    rw [hrun]
    exact exec_answers (by simp [hreq]) hwf
  · exact ⟨_, hrun⟩

end answers

/-! ### The claims -/

/-- Settles O11: of the kinds of step, only capture, reset and a delivered response touch the channels, and none changes
how many there are. -/
theorem stepKeepsTheParameters : Obligations.StepKeepsTheParameters := by
  intro s t h
  obtain ⟨-, rfl⟩ | ⟨ts, -, rfl⟩ | ⟨k, req, ts, -, rfl⟩ | ⟨k, ts, -, hrun⟩ | ⟨ts, -, rfl⟩ := step_cases h
  · exact ⟨rfl, rfl⟩
  · exact ⟨rfl, rfl⟩
  · simp
  · obtain ⟨r, rfl⟩ := runRequest_next hrun
    simp
  · simp

/-- Settles O18: the step runs the request on its channel, and performing a request inside the interface answers it. -/
theorem requestWithinInterfaceIsAnswered : Obligations.RequestWithinInterfaceIsAnswered := by
  intro s k rest req hplan hreq hin
  rw [step_of_perform hplan]
  exact runRequest_answers (s := s.select k rest) hreq hin

end Sys2Proof.Proofs
end

section
/-! Three claims of 10_state.md and 70_reset_and_hazards.md: the outcome of an operation is a function of its request and
the capacity, turns with nothing to do change nothing, and every channel is idle after reset. The lemmas before them say
that two states which agree on request and capacity take the same operand and end the operation alike, and what the step
does when no request is performed. -/

namespace Sys2Proof.Proofs

open Sys2Proof Sys2Proof.Machine Sys2Proof.Safety Sys2Proof.Laws

/-! ### An operation in two states that agree on request and capacity -/

/-- The last of the four ends of an operation, next to `perform_raises`, `perform_returns` and `perform_refuses`. -/
theorem perform_refuses_result {α : Type} {operand : Except Refusal α} {op : α → Except Err Result} {s : State} {a : α}
    {r : Result} (ha : operand = .ok a) (hr : op a = .ok r) (hlong : s.maxFrameBytes < resultBytes r) :
    perform operand op s = .refused .resultTooLong := by
  simp [perform, ha, hr, finish, returnResult, hlong]

section agree

variable {s t : State}

/-- One operation on one operand ends alike in two states of the same capacity: each delivers the same response, or both
refuse for the same reason. -/
theorem perform_agree {α : Type} (operand : Except Refusal α) (op : α → Except Err Result)
    (hcap : s.maxFrameBytes = t.maxFrameBytes) :
    (∃ r, perform operand op s = .next (s.deliver r) ∧ perform operand op t = .next (t.deliver r))
      ∨ ∃ x, perform operand op s = .refused x ∧ perform operand op t = .refused x := by
  obtain ⟨x, hx, hs⟩ | ⟨a, e, ha, he, hs⟩ | ⟨a, r, ha, hr, hfit, hs⟩ | ⟨a, r, ha, hr, hlong, hs⟩ :=
    perform_cases operand op s
  · exact .inr ⟨x, hs, perform_refuses hx⟩
  · exact .inl ⟨_, hs, perform_raises ha he⟩
  · exact .inl ⟨_, hs, perform_returns ha hr (hcap ▸ hfit)⟩
  · exact .inr ⟨_, hs, perform_refuses_result ha hr (hcap ▸ hlong)⟩

theorem operand_agree (hreq : s.request = t.request) : operand s = operand t := by
  rw [operand, operand, hreq]

theorem tagOperand_agree (hreq : s.request = t.request) : tagOperand s = tagOperand t := by
  rw [tagOperand, tagOperand, operand_agree hreq]

theorem bufferOperand_agree (hreq : s.request = t.request) (hcap : s.maxFrameBytes = t.maxFrameBytes) :
    bufferOperand s = bufferOperand t := by
  rw [bufferOperand, bufferOperand, operand_agree hreq, hcap]

theorem twoBytesOperand_agree (hreq : s.request = t.request) (hcap : s.maxFrameBytes = t.maxFrameBytes) :
    twoBytesOperand s = twoBytesOperand t := by
  rw [twoBytesOperand, twoBytesOperand, operand_agree hreq, hcap]

theorem frameOperand_agree (hreq : s.request = t.request) (hcap : s.maxFrameBytes = t.maxFrameBytes) :
    frameOperand s = frameOperand t := by
  rw [frameOperand, frameOperand, operand_agree hreq, hcap]

/-- Every meaning takes its operand in a form that reads only the request and the capacity, and ends as `perform`
ends. -/
theorem exec_is_perform_of_agreeing_operand (i : Instr) :
    ∃ (α : Type) (operand : State → Except Refusal α) (op : α → Except Err Result),
      (∀ s t : State, s.request = t.request → s.maxFrameBytes = t.maxFrameBytes → operand s = operand t)
        ∧ ∀ s, exec i s = perform (operand s) op s := by
  cases i with
  | tagPack => exact ⟨_, tagOperand, _, fun _ _ hreq _ => tagOperand_agree hreq, fun _ => rfl⟩
  | tagUnpack => exact ⟨_, twoBytesOperand, _, fun _ _ => twoBytesOperand_agree, fun _ => rfl⟩
  | frameEncode => exact ⟨_, frameOperand, _, fun _ _ => frameOperand_agree, fun _ => rfl⟩
  | frameEncodeFcs => exact ⟨_, frameOperand, _, fun _ _ => frameOperand_agree, fun _ => rfl⟩
  | frameDecode => exact ⟨_, bufferOperand, _, fun _ _ => bufferOperand_agree, fun _ => rfl⟩
  | frameDecodeFcs => exact ⟨_, bufferOperand, _, fun _ _ => bufferOperand_agree, fun _ => rfl⟩

theorem exec_agree (i : Instr) (hreq : s.request = t.request) (hcap : s.maxFrameBytes = t.maxFrameBytes) :
    (∃ r, exec i s = .next (s.deliver r) ∧ exec i t = .next (t.deliver r))
      ∨ ∃ x, exec i s = .refused x ∧ exec i t = .refused x := by
  obtain ⟨α, operand, op, hoperand, hexec⟩ := exec_is_perform_of_agreeing_operand i
  rw [hexec, hexec, hoperand s t hreq hcap]
  exact perform_agree _ op hcap

end agree

/-! ### The plan and the step when no request is performed -/

section plan

variable {s : State} {k : Nat} {ts : List Turn}

theorem inFlight_of_inFlightOn_eq_none {c : Channel} (hc : s.channels[k]? = some c) (hidle : s.inFlightOn k = none) :
    c.inFlight = none := by
  simpa [State.inFlightOn, hc] using hidle

theorem firstBusy_eq_none (hidle : ∀ j, s.inFlightOn j = none) : firstBusy s = none := by
  refine List.findIdx?_eq_none_iff.mpr fun c hc => ?_
  obtain ⟨j, hj⟩ := List.mem_iff_getElem?.mp hc
  simp [inFlight_of_inFlightOn_eq_none hj (hidle j)]

theorem plan_run_of_idle (hturns : s.turns = .run k :: ts) (hk : k < s.channels.length)
    (hidle : s.inFlightOn k = none) : s.plan = .skip ts := by
  have hc : s.channels[k]? = some s.channels[k] := List.getElem?_eq_getElem hk
  simp [State.plan, hturns, hc, inFlight_of_inFlightOn_eq_none hc hidle]

theorem plan_of_all_idle (hturns : s.turns = []) (hidle : ∀ j, s.inFlightOn j = none) : s.plan = .rest := by
  simp [State.plan, hturns, firstBusy_eq_none hidle]

theorem plan_run_of_length_le (hturns : s.turns = .run k :: ts) (hk : s.channels.length ≤ k) :
    s.plan = .noSuchChannel := by
  simp [State.plan, hturns, List.getElem?_eq_none hk]

theorem plan_issue_of_length_le {req : Request} (hturns : s.turns = .issue k req :: ts) (hk : s.channels.length ≤ k) :
    s.plan = .noSuchChannel := by
  simp [State.plan, hturns, List.getElem?_eq_none hk]

theorem step_of_rest (h : s.plan = .rest) : step s = .next s := by
  simp [step, h]

theorem step_of_skip (h : s.plan = .skip ts) : step s = .next { s with turns := ts } := by
  simp [step, h]

theorem step_of_noSuchChannel (h : s.plan = .noSuchChannel) : step s = .refused .noSuchChannel := by
  simp [step, h]

end plan

/-! ### The claims -/

/-- Settles O15: the two states take the same operand, and `perform` ends alike at equal capacity. -/
theorem outcomeDependsOnRequestAlone : Obligations.OutcomeDependsOnRequestAlone := by
  intro i s t hreq hcap
  obtain ⟨r, hs, ht⟩ | ⟨x, hs, ht⟩ := exec_agree i hreq hcap
  · rw [hs, ht]
    exact ⟨fun s' h => ⟨r, (Host.Outcome.next.inj h).symm, rfl⟩, fun x h => by cases h⟩
  · rw [hs, ht]
    exact ⟨fun s' h => (by cases h), fun x' h => h ▸ rfl⟩

/-- Settles O8: the plan is to skip the turn of an idle channel, to rest when nothing is to do, and to refuse a channel
out of range. -/
theorem turnsWithNothingToDoChangeNothing : Obligations.TurnsWithNothingToDoChangeNothing := by
  intro s k rest
  refine ⟨fun hturns hk hidle => step_of_skip (plan_run_of_idle hturns hk hidle),
    fun hturns hidle => step_of_rest (plan_of_all_idle hturns hidle), fun hk hturns => step_of_noSuchChannel ?_⟩
  obtain hrun | ⟨req, hissue⟩ := hturns
  · exact plan_run_of_length_le hrun hk
  · exact plan_issue_of_length_le hissue hk

/-- Settles O10: the channels of a reset state are copies of the idle channel. -/
theorem everyChannelIdleAfterReset : Obligations.EveryChannelIdleAfterReset := by
  refine ⟨rfl, fun maxBytes instances k hk => ?_⟩
  rw [resetWith_channels, List.getElem?_replicate_of_lt hk, Channel.idle]

end Sys2Proof.Proofs
end

section
/-! Three claims of 20_memory.md: a request beyond the capacity is refused (R60), a request is captured at issue or waits
for its channel (R59), and no channel is touched by what the others do (R61). The lemmas before them say what the plan is
at each kind of turn, and that a machine that follows only the steps of one channel keeps that channel the same. -/

namespace Sys2Proof.Proofs

open Sys2Proof Sys2Proof.Machine Sys2Proof.Safety Sys2Proof.Laws

/-! ### The state of a channel and the plan at each kind of turn -/

section plan

variable {s : State} {k : Nat} {ts : List Turn} {req pending : Request}

theorem inFlightOn_of_channel {c : Channel} (hc : s.channels[k]? = some c) : s.inFlightOn k = c.inFlight := by
  simp [State.inFlightOn, hc]

theorem lt_length_of_channel {c : Channel} (hc : s.channels[k]? = some c) : k < s.channels.length :=
  (List.getElem?_eq_some_iff.mp hc).1

/-- A channel does not exist, is idle or is busy. -/
theorem channel_cases (s : State) (k : Nat) : s.channels.length ≤ k
    ∨ (k < s.channels.length ∧ s.inFlightOn k = none) ∨ ∃ req, s.inFlightOn k = some req := by
  cases hreq : s.inFlightOn k with
  | some req => exact .inr (.inr ⟨req, rfl⟩)
  | none => exact (le_or_gt s.channels.length k).imp_right fun hk => .inl ⟨hk, rfl⟩

/-- The lowest-numbered busy channel is busy. -/
theorem inFlightOn_of_firstBusy (h : firstBusy s = some k) : ∃ req, s.inFlightOn k = some req := by
  obtain ⟨hk, hbusy, -⟩ := List.findIdx?_eq_some_iff_getElem.mp h
  rw [inFlightOn_of_channel (List.getElem?_eq_getElem hk)]
  exact Option.isSome_iff_exists.mp hbusy

theorem firstBusy_eq_some (hbusy : s.inFlightOn k = some req) (hidle : ∀ j, j < k → s.inFlightOn j = none) :
    firstBusy s = some k := by
  obtain ⟨c, hc, hreq⟩ := inFlightOn_eq_some.mp hbusy
  obtain ⟨hk, rfl⟩ := List.getElem?_eq_some_iff.mp hc
  refine List.findIdx?_eq_some_iff_getElem.mpr ⟨hk, by simp [hreq], fun j hj => ?_⟩
  simp [inFlight_of_inFlightOn_eq_none (List.getElem?_eq_getElem (hj.trans hk)) (hidle j hj)]

theorem plan_of_firstBusy (hturns : s.turns = []) (hbusy : firstBusy s = some k) : s.plan = .perform k [] := by
  simp [State.plan, hturns, hbusy]

/-- With no turn left a busy channel performs, or the machine is at rest. -/
theorem plan_of_no_turns (hturns : s.turns = []) :
    (∃ j, firstBusy s = some j ∧ s.plan = .perform j []) ∨ s.plan = .rest := by
  cases hbusy : firstBusy s with
  | some j => exact .inl ⟨j, rfl, plan_of_firstBusy hturns hbusy⟩
  | none => exact .inr (by simp [State.plan, hturns, hbusy])

theorem plan_issue_of_idle (hturns : s.turns = .issue k req :: ts) (hk : k < s.channels.length)
    (hidle : s.inFlightOn k = none) : s.plan = .accept k req ts := by
  have hc : s.channels[k]? = some s.channels[k] := List.getElem?_eq_getElem hk
  simp [State.plan, hturns, hc, inFlight_of_inFlightOn_eq_none hc hidle]

theorem plan_issue_of_busy (hturns : s.turns = .issue k req :: ts) (hbusy : s.inFlightOn k = some pending) :
    s.plan = .perform k (.issue k req :: ts) := by
  obtain ⟨c, hc, hpending⟩ := inFlightOn_eq_some.mp hbusy
  simp [State.plan, hturns, hc, hpending]

theorem plan_run_of_busy (hturns : s.turns = .run k :: ts) (hbusy : s.inFlightOn k = some pending) :
    s.plan = .perform k ts := by
  obtain ⟨c, hc, hpending⟩ := inFlightOn_eq_some.mp hbusy
  simp [State.plan, hturns, hc, hpending]

theorem plan_reset (hturns : s.turns = .reset :: ts) : s.plan = .reset ts := by
  simp [State.plan, hturns]

theorem step_of_accept (h : s.plan = .accept k req ts) : step s = .next (s.accept k req ts) := by
  simp [step, h]

theorem step_of_reset (h : s.plan = .reset ts) : step s = .next (s.assertReset ts) := by
  simp [step, h]

/-- A step that performs a request and has a next state delivers one response on the channel it performs. -/
theorem step_next_of_perform {t : State} (h : s.plan = .perform k ts) (hs : step s = .next t) :
    ∃ r, t = (s.select k ts).deliver r :=
  runRequest_next (step_of_perform h ▸ hs)

end plan

/-! ### A machine that follows one channel -/

/-- Performing a request ends alike in two states that agree on the request and the capacity. -/
theorem runRequest_agree {s t : State} (hreq : s.request = t.request) (hcap : s.maxFrameBytes = t.maxFrameBytes) :
    (∃ r, runRequest s = .next (s.deliver r) ∧ runRequest t = .next (t.deliver r))
      ∨ ∃ x, runRequest s = .refused x ∧ runRequest t = .refused x := by
  cases hs : s.request with
  | none => exact .inr ⟨_, runRequest_of_idle hs, runRequest_of_idle (hreq ▸ hs)⟩
  | some req =>
    cases hd : decode req.cmd with
    | ok i => simpa [runRequest, fetch, hs, ← hreq, hd] using exec_agree i hreq hcap
    | error x => exact .inl ⟨errResponse .illegalOperation, by simp [runRequest, fetch, hs, ← hreq, hd, raise]⟩

/-- `u` has channel `k` and its turns as `s` has them, and nothing to do on any other channel. The responses that other
channels have returned, and the channel of the last step, may differ. -/
structure FollowsChannel (k : Nat) (s u : State) : Prop where
  capacity : u.maxFrameBytes = s.maxFrameBytes
  turns : u.turns = s.turns.filter (concerns k)
  channel : u.channels[k]? = s.channels[k]?
  othersIdle : ∀ j, j ≠ k → u.inFlightOn j = none

theorem followsChannel_only (k : Nat) (s : State) : FollowsChannel k s (only k s) where
  capacity := rfl
  turns := rfl
  channel := by simp [only]
  othersIdle j hj := by
    cases hc : s.channels[j]? <;> simp [State.inFlightOn, only, hc, hj]

/-- `u` needs at most one step to follow a step to `s'`. -/
def CatchesUp (k : Nat) (s' u : State) : Prop :=
  FollowsChannel k s' u ∨ ∃ u', step u = .next u' ∧ FollowsChannel k s' u'

namespace FollowsChannel

variable {k j : Nat} {s s' u : State} {ts : List Turn}

theorem inFlightOn_eq (h : FollowsChannel k s u) : u.inFlightOn k = s.inFlightOn k := by
  rw [State.inFlightOn, State.inFlightOn, h.channel]

theorem lt_length (h : FollowsChannel k s u) (hk : k < s.channels.length) : k < u.channels.length :=
  lt_length_of_channel (h.channel.trans (List.getElem?_eq_getElem hk))

/-- A turn that touches the channel is the next one in `u` too. -/
theorem turns_cons {t : Turn} (h : FollowsChannel k s u) (hturns : s.turns = t :: ts) (ht : concerns k t = true) :
    u.turns = t :: ts.filter (concerns k) := by
  rw [h.turns, hturns, List.filter_cons_of_pos ht]

/-- What changes neither the channel nor its turns needs no step of `u`. -/
theorem of_unchanged (h : FollowsChannel k s u) (hcap : s'.maxFrameBytes = s.maxFrameBytes)
    (hturns : s'.turns.filter (concerns k) = s.turns.filter (concerns k))
    (hchannel : s'.channels[k]? = s.channels[k]?) : FollowsChannel k s' u where
  capacity := h.capacity.trans hcap.symm
  turns := h.turns.trans hturns.symm
  channel := h.channel.trans hchannel.symm
  othersIdle := h.othersIdle

/-- The same change of channel `k` on both sides. -/
theorem modify (h : FollowsChannel k s u) (f : Channel → Channel) (ts : List Turn) (a b : Nat) :
    FollowsChannel k { s with channels := s.channels.modify k f, turns := ts, active := a }
      { u with channels := u.channels.modify k f, turns := ts.filter (concerns k), active := b } where
  capacity := h.capacity
  turns := rfl
  channel := by simp [h.channel]
  othersIdle i hi := by simpa [State.inFlightOn, Ne.symm hi] using h.othersIdle i hi

theorem setTurns (h : FollowsChannel k s u) (ts : List Turn) :
    FollowsChannel k { s with turns := ts } { u with turns := ts.filter (concerns k) } where
  capacity := h.capacity
  turns := rfl
  channel := h.channel
  othersIdle := h.othersIdle

theorem assertReset (h : FollowsChannel k s u) (ts : List Turn) :
    FollowsChannel k (s.assertReset ts) (u.assertReset (ts.filter (concerns k))) where
  capacity := h.capacity
  turns := rfl
  channel := by simp [h.channel]
  othersIdle i _ := by cases hc : u.channels[i]? <;> simp [State.inFlightOn, hc]

/-- When a request is performed: on another channel `u` stays, on channel `k` it performs the same request. -/
theorem of_perform (h : FollowsChannel k s u) (hs : step s = .next s') (hplan : s.plan = .perform j ts)
    (hother : j ≠ k → ts.filter (concerns k) = s.turns.filter (concerns k))
    (hown : j = k → u.plan = .perform k (ts.filter (concerns k))) : CatchesUp k s' u := by
  by_cases hj : j = k
  · subst hj
    rw [step_of_perform hplan] at hs
    obtain ⟨r, hrun, hrun'⟩ | ⟨x, hrun, -⟩ := runRequest_agree (s := s.select j ts)
        (t := u.select j (ts.filter (concerns j))) h.inFlightOn_eq.symm h.capacity.symm <;>
      rw [hrun] at hs
    · obtain rfl := Host.Outcome.next.inj hs
      exact .inr ⟨_, (step_of_perform (hown rfl)).trans hrun', h.modify ..⟩
    · cases hs
  · obtain ⟨r, rfl⟩ := step_next_of_perform hplan hs
    exact .inl (h.of_unchanged rfl (hother hj) (deliver_channel_ne r (Ne.symm hj)))

theorem of_no_turns (h : FollowsChannel k s u) (hs : step s = .next s') (hturns : s.turns = []) : CatchesUp k s' u := by
  have huturns : u.turns = [] := by simp [h.turns, hturns]
  obtain ⟨j, hbusy, hplan⟩ | hplan := plan_of_no_turns hturns
  · refine h.of_perform hs hplan (fun _ => by rw [hturns]) ?_
    rintro rfl
    obtain ⟨req, hreq⟩ := inFlightOn_of_firstBusy hbusy
    exact plan_of_firstBusy huturns
      (firstBusy_eq_some (h.inFlightOn_eq.trans hreq) fun i hi => h.othersIdle i hi.ne)
  · rw [step_of_rest hplan] at hs
    obtain rfl := Host.Outcome.next.inj hs
    exact .inl h

theorem of_issue_turn {req : Request} (h : FollowsChannel k s u) (hs : step s = .next s')
    (hturns : s.turns = .issue j req :: ts) : CatchesUp k s' u := by
  have hown : j = k → u.turns = .issue k req :: ts.filter (concerns k) := fun hj =>
    h.turns_cons (hj ▸ hturns) (by simp [concerns])
  obtain hj | ⟨hj, hidle⟩ | ⟨pending, hbusy⟩ := channel_cases s j
  · rw [step_of_noSuchChannel (plan_issue_of_length_le hturns hj)] at hs
    cases hs
  · rw [step_of_accept (plan_issue_of_idle hturns hj hidle)] at hs
    obtain rfl := Host.Outcome.next.inj hs
    by_cases hjk : j = k
    · subst hjk
      exact .inr ⟨_, step_of_accept (plan_issue_of_idle (hown rfl) (h.lt_length hj) (h.inFlightOn_eq.trans hidle)),
        h.modify ..⟩
    · exact .inl (h.of_unchanged rfl (by simp [hturns, concerns, hjk]) (accept_channel_ne req ts (Ne.symm hjk)))
  · refine h.of_perform hs (plan_issue_of_busy hturns hbusy) (fun _ => by rw [hturns]) ?_
    rintro rfl
    simpa [concerns] using plan_issue_of_busy (hown rfl) (h.inFlightOn_eq.trans hbusy)

theorem of_run_turn (h : FollowsChannel k s u) (hs : step s = .next s') (hturns : s.turns = .run j :: ts) :
    CatchesUp k s' u := by
  have hown : j = k → u.turns = .run k :: ts.filter (concerns k) := fun hj =>
    h.turns_cons (hj ▸ hturns) (by simp [concerns])
  have hother : j ≠ k → ts.filter (concerns k) = s.turns.filter (concerns k) := fun hj => by
    simp [hturns, concerns, hj]
  obtain hj | ⟨hj, hidle⟩ | ⟨pending, hbusy⟩ := channel_cases s j
  · rw [step_of_noSuchChannel (plan_run_of_length_le hturns hj)] at hs
    cases hs
  · rw [step_of_skip (plan_run_of_idle hturns hj hidle)] at hs
    obtain rfl := Host.Outcome.next.inj hs
    by_cases hjk : j = k
    · subst hjk
      exact .inr ⟨_, step_of_skip (plan_run_of_idle (hown rfl) (h.lt_length hj) (h.inFlightOn_eq.trans hidle)),
        h.setTurns ts⟩
    · exact .inl (h.of_unchanged rfl (hother hjk) rfl)
  · refine h.of_perform hs (plan_run_of_busy hturns hbusy) hother ?_
    rintro rfl
    exact plan_run_of_busy (hown rfl) (h.inFlightOn_eq.trans hbusy)

theorem of_reset_turn (h : FollowsChannel k s u) (hs : step s = .next s') (hturns : s.turns = .reset :: ts) :
    CatchesUp k s' u := by
  rw [step_of_reset (plan_reset hturns)] at hs
  obtain rfl := Host.Outcome.next.inj hs
  exact .inr ⟨_, step_of_reset (plan_reset (h.turns_cons hturns rfl)), h.assertReset ts⟩

/-- Every step is followed in at most one step: none when it is another channel's. -/
theorem catchesUp (h : FollowsChannel k s u) (hs : step s = .next s') : CatchesUp k s' u := by
  cases hturns : s.turns with
  | nil => exact h.of_no_turns hs hturns
  | cons t ts =>
    cases t with
    | issue j req => exact h.of_issue_turn hs hturns
    | run j => exact h.of_run_turn hs hturns
    | reset => exact h.of_reset_turn hs hturns

end FollowsChannel

theorem runSteps_succ {s s₁ : State} (n : Nat) (h : step s = .next s₁) : runSteps (n + 1) s = runSteps n s₁ := by
  simp [runSteps, Host.Core.run, core, h]

theorem runSteps_succ_next {n : Nat} {s s' : State} (h : runSteps (n + 1) s = .next s') :
    ∃ s₁, step s = .next s₁ ∧ runSteps n s₁ = .next s' := by
  cases hs : step s with
  | next s₁ => exact ⟨s₁, rfl, (runSteps_succ n hs).symm.trans h⟩
  | fault x => cases x
  | refused x => simp [runSteps, Host.Core.run, core, hs] at h

/-- A run is followed in at most as many steps. -/
theorem FollowsChannel.run {k n : Nat} {s s' u : State} (h : FollowsChannel k s u) (hrun : runSteps n s = .next s') :
    ∃ m u', m ≤ n ∧ runSteps m u = .next u' ∧ FollowsChannel k s' u' := by
  induction n generalizing s u with
  | zero =>
    obtain rfl := Host.Outcome.next.inj hrun
    exact ⟨0, u, le_rfl, rfl, h⟩
  | succ n ih =>
    obtain ⟨s₁, hs, hrun⟩ := runSteps_succ_next hrun
    obtain h₁ | ⟨u₁, hu, h₁⟩ := h.catchesUp hs <;> obtain ⟨m, u', hm, hrun', h'⟩ := ih h₁ hrun
    · exact ⟨m, u', by omega, hrun', h'⟩
    · exact ⟨m + 1, u', by omega, (runSteps_succ m hu).trans hrun', h'⟩

/-! ### Operands and results beyond the capacity -/

section capacity

variable {m : Nat}

theorem asBuffer_too_long {b : List Byte} (h : m < b.length) : asBuffer m (.bytes b) = .error .inputTooLong := by
  simp [asBuffer, h]

theorem asTwoBytes_too_long {b : List Byte} (h : m < b.length) : asTwoBytes m (.bytes b) = .error .inputTooLong := by
  simp [asTwoBytes, asBuffer_too_long h]

theorem asFrame_too_long {F : FrameRecord} (h : m < F.payload.length) :
    asFrame m (.frame F) = .error .inputTooLong := by
  simp [asFrame, h]

end capacity

theorem packTCI_ok {t : TagRecord} (h : t.vid.toNat ≤ 4095) : ∃ w, packTCI t = .ok w := by
  obtain ⟨-, w, hw, -⟩ | ⟨hgt, -⟩ := packTCI_cases t
  · exact ⟨w, hw⟩
  · omega

theorem packPresent_ok {t : Option TagRecord} (h : t.all vidInRange = true) : ∃ w, packPresent t = .ok w := by
  cases t with
  | none => exact ⟨[], rfl⟩
  | some t => exact packTCI_ok (by simpa [vidInRange] using h)

/-- The encoder succeeds on every accepted frame record (R181). -/
theorem encodeFrame_of_accepted {F : FrameRecord} (h : accepted F = true) : ∃ b, encodeFrame F = .ok b := by
  obtain ⟨hstack, hvids⟩ := Bool.and_eq_true_iff.mp h
  obtain ⟨houter, hinner⟩ := Bool.and_eq_true_iff.mp hvids
  obtain ⟨otci, ho⟩ := packPresent_ok houter
  obtain ⟨itci, hi⟩ := packPresent_ok hinner
  exact ⟨_, encodeFrame_of_packed (by simpa only [wellStacked, Bool.not_eq_true'] using hstack) ho hi⟩

section refuses

variable {s : State} {F : FrameRecord} {t : TagRecord}

theorem frameEncode_refuses_result (ho : Presents s (.frame F)) (hin : F.payload.length ≤ s.maxFrameBytes)
    (hacc : accepted F = true) (hlong : s.maxFrameBytes < F.encodedLength) :
    exec .frameEncode s = .refused .resultTooLong := by
  obtain ⟨b, hb⟩ := encodeFrame_of_accepted hacc
  exact perform_refuses_result ((frameOperand_eq ho).trans (asFrame_frame hin)) (map_eq_ok.mpr ⟨b, hb, rfl⟩)
    (hlong.trans_eq (length_encodeFrame hb).symm)

theorem frameEncodeFcs_refuses_result (ho : Presents s (.frame F)) (hin : F.payload.length ≤ s.maxFrameBytes)
    (hacc : accepted F = true) (hlong : s.maxFrameBytes < F.encodedLength + 4) :
    exec .frameEncodeFcs s = .refused .resultTooLong := by
  obtain ⟨b, hb⟩ := encodeFrame_of_accepted hacc
  have hfcs : encodeFrameFCS F = .ok (appendFCS b) := map_eq_ok.mpr ⟨b, hb, rfl⟩
  exact perform_refuses_result ((frameOperand_eq ho).trans (asFrame_frame hin)) (map_eq_ok.mpr ⟨_, hfcs, rfl⟩)
    (hlong.trans_eq (length_encodeFrameFCS hfcs).symm)

theorem tagPack_refuses_result (ho : Presents s (.tag t)) (hvid : t.vid.toNat ≤ 4095) (hcap : s.maxFrameBytes < 2) :
    exec .tagPack s = .refused .resultTooLong := by
  obtain ⟨w, hw⟩ := packTCI_ok hvid
  exact perform_refuses_result ((tagOperand_eq ho).trans (asTag_tag t)) (map_eq_ok.mpr ⟨w, hw, rfl⟩)
    (hcap.trans_eq (length_packTCI hw).symm)

end refuses

/-! ### The claims -/

/-- Settles O42: the machine in which only channel `k` is used follows the run, one step for each step that touches the
channel and none for any other. -/
theorem otherChannelsDoNotMatter : Obligations.OtherChannelsDoNotMatter := by
  intro n k s s' hrun
  obtain ⟨m, t, hm, hrun', h⟩ := (followsChannel_only k s).run hrun
  exact ⟨m, t, hm, hrun', h.channel⟩

/-- Settles O7: the plan is to capture on an idle channel, and on a busy one to perform its request with the issue turn
still to come. -/
theorem issueCapturesOrWaits : Obligations.IssueCapturesOrWaits := by
  intro s k req rest c hturns hc
  have hk := inFlightOn_of_channel hc
  refine ⟨fun hidle => ?_, fun hbusy t hs => ?_⟩
  · rw [step_of_accept (plan_issue_of_idle hturns (lt_length_of_channel hc) (hk.trans hidle)), State.accept,
      List.modify_eq_set_getElem?, hc]
    rfl
  · obtain ⟨pending, hpending⟩ := Option.isSome_iff_exists.mp hbusy
    obtain ⟨r, rfl⟩ := step_next_of_perform (plan_issue_of_busy hturns (hk.trans hpending)) hs
    exact ⟨hturns.symm, r, deliver_channel_self (s := s.select k _) r hc⟩

/-- Settles O19: an input too long is refused as the operand is taken, and the result of an accepted request is refused
by its length. -/
theorem requestBeyondCapacityIsRefused : Obligations.RequestBeyondCapacityIsRefused := by
  refine ⟨fun s b ho hlong => ?_, fun s F ho hlong => ?_, fun s F ho hin hacc => ?_, fun s t ho hvid hcap => ?_⟩
  · have hbuffer := (bufferOperand_eq ho).trans (asBuffer_too_long hlong)
    exact ⟨perform_refuses ((twoBytesOperand_eq ho).trans (asTwoBytes_too_long hlong)), perform_refuses hbuffer,
      perform_refuses hbuffer⟩
  · have hframe := (frameOperand_eq ho).trans (asFrame_too_long hlong)
    exact ⟨perform_refuses hframe, perform_refuses hframe⟩
  · exact ⟨frameEncode_refuses_result ho hin hacc, frameEncodeFcs_refuses_result ho hin hacc⟩
  · exact tagPack_refuses_result ho hvid hcap

end Sys2Proof.Proofs
end

section
/-! The claims of 30_encoding.md: the command word decodes to exactly the operations of its table and is answered with
IllegalOperation otherwise, a step runs the decoded operation, every operation answers inside its interface and refuses
an operand of another kind, and every response ever returned is legal. The lemmas before them say when a command word
decodes, what an operation does with an operand of another kind, what a decoded frame record is made of, and that every
response an operation delivers is legal. -/

namespace Sys2Proof.Proofs

open Sys2Proof Sys2Proof.Machine Sys2Proof.Safety Sys2Proof.Laws

/-! ### The command word and its decode -/

@[simp] theorem cmdRsv_append (rsv : BitVec 28) (op : BitVec 4) : cmdRsv (rsv ++ op) = rsv :=
  BitVec.extractLsb'_append_eq_left

@[simp] theorem cmdOp_append (rsv : BitVec 28) (op : BitVec 4) : cmdOp (rsv ++ op) = op :=
  BitVec.extractLsb'_append_eq_right

/-- The two fields of R70 are the whole command word. -/
theorem cmdRsv_append_cmdOp (w : Word) : cmdRsv w ++ cmdOp w = w :=
  (BitVec.extractLsb'_append_extractLsb'_eq_extractLsb' (start₁ := 0) (len₁ := 4) rfl).trans
    BitVec.extractLsb'_eq_self

theorem opInstr_eq_some_iff (op : BitVec 4) (i : Instr) : opInstr op = some i ↔ op = opcode i := by
  cases i <;> revert op <;> decide

theorem opInstr_eq_none_iff (op : BitVec 4) : opInstr op = none ↔ op = 0 ∨ 7 ≤ op.toNat := by
  revert op; decide

section decode

variable {w : Word}

theorem decode_of_cmdRsv_ne_zero (h : cmdRsv w ≠ 0) : decode w = .error .reservedField := if_pos h

theorem decode_of_cmdRsv_eq_zero (h : cmdRsv w = 0) :
    decode w = (opInstr (cmdOp w)).elim (.error .reservedOp) .ok := by
  cases hop : opInstr (cmdOp w) <;> simp [decode, h, hop]

theorem decode_eq_ok_iff {i : Instr} : decode w = .ok i ↔ cmdRsv w = 0 ∧ cmdOp w = opcode i := by
  by_cases hrsv : cmdRsv w = 0
  · rw [decode_of_cmdRsv_eq_zero hrsv, ← opInstr_eq_some_iff]
    cases opInstr (cmdOp w) <;> simp [hrsv]
  · exact iff_of_false (by simp [decode_of_cmdRsv_ne_zero hrsv]) fun h => hrsv h.1

theorem decode_eq_reservedOp_iff :
    decode w = .error .reservedOp ↔ cmdRsv w = 0 ∧ (cmdOp w = 0 ∨ 7 ≤ (cmdOp w).toNat) := by
  by_cases hrsv : cmdRsv w = 0
  · rw [decode_of_cmdRsv_eq_zero hrsv, ← opInstr_eq_none_iff]
    cases opInstr (cmdOp w) <;> simp [hrsv]
  · exact iff_of_false (by simp [decode_of_cmdRsv_ne_zero hrsv]) fun h => hrsv h.1

theorem eq_encode_iff {i : Instr} : w = encode i ↔ cmdRsv w = 0 ∧ cmdOp w = opcode i := by
  constructor
  · rintro rfl
    exact ⟨cmdRsv_append .., cmdOp_append ..⟩
  · rintro ⟨hrsv, hop⟩
    rw [← cmdRsv_append_cmdOp w, hrsv, hop, encode]

/-- A non-zero reserved field or a reserved `OP` rejects the word (R72, R73). -/
theorem decode_reserved (h : cmdRsv w ≠ 0 ∨ cmdOp w = 0 ∨ 7 ≤ (cmdOp w).toNat) : ∃ x, decode w = .error x := by
  by_cases hrsv : cmdRsv w = 0
  · exact ⟨_, decode_eq_reservedOp_iff.mpr ⟨hrsv, h.resolve_left (not_not_intro hrsv)⟩⟩
  · exact ⟨_, decode_of_cmdRsv_ne_zero hrsv⟩

end decode

/-! ### Performing a request, by its command word -/

section runRequest

variable {s : State} {req : Request}

theorem runRequest_of_decode_ok {i : Instr} (hreq : s.request = some req) (hd : decode req.cmd = .ok i) :
    runRequest s = exec i s := by
  simp [runRequest, fetch, hreq, hd]

theorem runRequest_of_decode_error {x : DecodeError} (hreq : s.request = some req) (hd : decode req.cmd = .error x) :
    runRequest s = .next (s.deliver (errResponse .illegalOperation)) := by
  simp [runRequest, fetch, hreq, hd, raise]

end runRequest

/-! ### An operand of another kind -/

/-- The operand record is of the kind the operation takes (R74), whatever its length. -/
def takesKind (i : Instr) (o : Operand) : Bool :=
  match i, o with
  | .tagPack, .tag _ => true
  | .tagUnpack, .bytes _ => true
  | .frameEncode, .frame _ => true
  | .frameEncodeFcs, .frame _ => true
  | .frameDecode, .bytes _ => true
  | .frameDecodeFcs, .bytes _ => true
  | _, _ => false

section foreign

variable {o : Operand} {m : Nat} {s : State}

theorem asTag_foreign (h : ∀ t, o ≠ .tag t) : asTag o = .error .operandKind := by
  cases o with
  | tag t => exact absurd rfl (h t)
  | absent | bytes | frame => rfl

theorem asBuffer_foreign (h : ∀ b, o ≠ .bytes b) : asBuffer m o = .error .operandKind := by
  cases o with
  | bytes b => exact absurd rfl (h b)
  | absent | tag | frame => rfl

theorem asTwoBytes_foreign (h : ∀ b, o ≠ .bytes b) : asTwoBytes m o = .error .operandKind := by
  simp [asTwoBytes, asBuffer_foreign h]

theorem asFrame_foreign (h : ∀ F, o ≠ .frame F) : asFrame m o = .error .operandKind := by
  cases o with
  | frame F => exact absurd rfl (h F)
  | absent | tag | bytes => rfl

theorem asTwoBytes_of_length_ne {b : List Byte} (h2 : b.length ≠ 2) (h : b.length ≤ m) :
    asTwoBytes m (.bytes b) = .error .unpackLength := by
  simp [asTwoBytes, asBuffer_bytes h, h2]

/-- Every operation refuses an operand of a kind that is not its own. -/
theorem exec_refuses_foreign {i : Instr} (ho : Presents s o) (h : takesKind i o = false) :
    exec i s = .refused .operandKind := by
  cases i with
  | tagPack =>
    exact perform_refuses ((tagOperand_eq ho).trans (asTag_foreign (by rintro t rfl; cases h)))
  | tagUnpack =>
    exact perform_refuses ((twoBytesOperand_eq ho).trans (asTwoBytes_foreign (by rintro b rfl; cases h)))
  | frameEncode | frameEncodeFcs =>
    exact perform_refuses ((frameOperand_eq ho).trans (asFrame_foreign (by rintro F rfl; cases h)))
  | frameDecode | frameDecodeFcs =>
    exact perform_refuses ((bufferOperand_eq ho).trans (asBuffer_foreign (by rintro b rfl; cases h)))

end foreign

/-! ### A decoded frame record is well stacked, with identifiers in range -/

section decodeFrame

variable {buf : List Byte} {off : Nat} {f12 : Half} {t : TagRecord} {hd : Header} {F : FrameRecord}

/-- A tag read from a buffer has an identifier of 12 bits. -/
theorem vidInRange_of_readTag (h : readTag buf off = .ok t) : vidInRange t = true := by
  obtain ⟨w, -, rfl⟩ := map_eq_ok.mp h
  exact decide_eq_true (unpackTCI_vid_le w)

theorem readDouble_ok (h : readDouble buf = .ok hd) : ∃ outer inner et, readTag buf 14 = .ok outer
    ∧ readHalf buf 16 = .ok standardTag ∧ readTag buf 18 = .ok inner ∧ readHalf buf 20 = .ok et
    ∧ hd = { outer := some outer, inner := some inner, etherType := et, hdr := 22 } := by
  obtain ⟨outer, houter, h⟩ := bind_eq_ok.mp h
  obtain ⟨f16, hf16, h⟩ := bind_eq_ok.mp h
  split at h
  · cases h
  · next hstd =>
    obtain rfl := not_not.mp hstd
    obtain ⟨inner, hinner, h⟩ := bind_eq_ok.mp h
    obtain ⟨et, het, h⟩ := bind_eq_ok.mp h
    exact ⟨outer, inner, et, houter, hf16, hinner, het, (Except.ok.inj h).symm⟩

theorem readSingle_ok (h : readSingle buf = .ok hd) : ∃ inner et, readTag buf 14 = .ok inner
    ∧ readHalf buf 16 = .ok et ∧ hd = { outer := none, inner := some inner, etherType := et, hdr := 18 } := by
  obtain ⟨inner, hinner, h⟩ := bind_eq_ok.mp h
  obtain ⟨et, het, h⟩ := bind_eq_ok.mp h
  exact ⟨inner, et, hinner, het, (Except.ok.inj h).symm⟩

/-- The three paths of the header read (R172): two tags, one tag, no tag. -/
theorem readHeader_ok (h : readHeader buf f12 = .ok hd) :
    (f12 = serviceTag ∧ readDouble buf = .ok hd) ∨ (f12 = standardTag ∧ readSingle buf = .ok hd)
      ∨ (f12 ≠ serviceTag ∧ f12 ≠ standardTag
          ∧ hd = { outer := none, inner := none, etherType := f12, hdr := 14 }) := by
  unfold readHeader at h
  split at h
  · next hs => exact .inl ⟨hs, h⟩
  · next hs =>
    split at h
    · next ht => exact .inr (.inl ⟨ht, h⟩)
    · next ht => exact .inr (.inr ⟨hs, ht, (Except.ok.inj h).symm⟩)

/-- When the decoder succeeds: its reads succeeded, and the record is made of what they gave. -/
theorem decodeFrame_ok (h : decodeFrame buf = .ok F) : 14 ≤ buf.length ∧ ∃ dst src f12 hd,
    memReadBytes buf 0 6 = .ok dst ∧ memReadBytes buf 6 6 = .ok src ∧ readHalf buf 12 = .ok f12
      ∧ readHeader buf f12 = .ok hd
      ∧ F = { dst := addrOfBytes dst, src := addrOfBytes src, outer := hd.outer, inner := hd.inner,
              etherType := hd.etherType, payload := buf.drop hd.hdr } := by
  unfold decodeFrame at h
  split at h
  · cases h
  · next hlen =>
    obtain ⟨dst, hdst, h⟩ := bind_eq_ok.mp h
    obtain ⟨src, hsrc, h⟩ := bind_eq_ok.mp h
    obtain ⟨f12, hf12, h⟩ := bind_eq_ok.mp h
    obtain ⟨hd, hhd, h⟩ := bind_eq_ok.mp h
    exact ⟨not_lt.mp hlen, dst, src, f12, hd, hdst, hsrc, hf12, hhd, (Except.ok.inj h).symm⟩

/-- A decoded frame record is one that encode accepts (R179). -/
theorem accepted_of_decodeFrame (h : decodeFrame buf = .ok F) : accepted F = true := by
  obtain ⟨-, dst, src, f12, hd, -, -, -, hhd, rfl⟩ := decodeFrame_ok h
  obtain ⟨-, hdouble⟩ | ⟨-, hsingle⟩ | ⟨-, -, rfl⟩ := readHeader_ok hhd
  · obtain ⟨outer, inner, et, houter, -, hinner, -, rfl⟩ := readDouble_ok hdouble
    simp [accepted, wellStacked, vidsInRange, vidInRange_of_readTag houter, vidInRange_of_readTag hinner]
  · obtain ⟨inner, et, hinner, -, rfl⟩ := readSingle_ok hsingle
    simp [accepted, wellStacked, vidsInRange, vidInRange_of_readTag hinner]
  · rfl

theorem accepted_of_decodeFrameFCS (h : decodeFrameFCS buf = .ok F) : accepted F = true := by
  obtain ⟨body, -, hd⟩ := bind_eq_ok.mp h
  exact accepted_of_decodeFrame hd

end decodeFrame

/-! ### Every response an operation delivers is legal -/

section legal

variable {m : Nat} {r : Result} {i : Instr} {s t : State}

theorem legalResponse_errResponse (m : Nat) (e : Err) : legalResponse m (errResponse e) = true := by
  cases e <;> rfl

theorem legalResponse_okResponse (m : Nat) (r : Result) : legalResponse m (okResponse r) = legalResult m r := by
  simp [legalResponse, okResponse, statusRsv, statusCode, statusWord, okCode]

/-- The results an operation can succeed with are legal once they fit the capacity, which `returnResult` checks. -/
def ResultsLegal {α : Type} (op : α → Except Err Result) (m : Nat) : Prop :=
  ∀ a r, op a = .ok r → resultBytes r ≤ m → legalResult m r = true

theorem resultsLegal_bytes {α : Type} (f : α → Except Err (List Byte)) (m : Nat) :
    ResultsLegal (fun a => (f a).map .bytes) m := by
  intro a r h hfit
  obtain ⟨b, -, rfl⟩ := map_eq_ok.mp h
  exact decide_eq_true hfit

theorem resultsLegal_unpackTCI (m : Nat) : ResultsLegal (fun w => .ok (.tag (unpackTCI w))) m := by
  rintro w r ⟨⟩ -
  exact decide_eq_true (unpackTCI_vid_le w)

theorem resultsLegal_frame {α : Type} {f : α → Except Err FrameRecord}
    (hf : ∀ a F, f a = .ok F → accepted F = true) (m : Nat) : ResultsLegal (fun a => (f a).map .frame) m := by
  intro a r h hfit
  obtain ⟨F, hF, rfl⟩ := map_eq_ok.mp h
  exact Bool.and_eq_true_iff.mpr ⟨hf a F hF, decide_eq_true hfit⟩

theorem exec_is_perform_of_resultsLegal (i : Instr) (s : State) :
    ∃ (α : Type) (operand : Except Refusal α) (op : α → Except Err Result),
      ResultsLegal op s.maxFrameBytes ∧ exec i s = perform operand op s := by
  cases i with
  | tagPack => exact ⟨_, _, _, resultsLegal_bytes packTCI _, rfl⟩
  | tagUnpack => exact ⟨_, _, _, resultsLegal_unpackTCI _, rfl⟩
  | frameEncode => exact ⟨_, _, _, resultsLegal_bytes encodeFrame _, rfl⟩
  | frameEncodeFcs => exact ⟨_, _, _, resultsLegal_bytes encodeFrameFCS _, rfl⟩
  | frameDecode => exact ⟨_, _, _, resultsLegal_frame (fun _ _ => accepted_of_decodeFrame) _, rfl⟩
  | frameDecodeFcs => exact ⟨_, _, _, resultsLegal_frame (fun _ _ => accepted_of_decodeFrameFCS) _, rfl⟩

theorem exec_delivers_legal (h : exec i s = .next t) :
    ∃ r, legalResponse s.maxFrameBytes r = true ∧ t = s.deliver r := by
  obtain ⟨α, operand, op, hlegal, hi⟩ := exec_is_perform_of_resultsLegal i s
  rw [hi] at h
  obtain ⟨x, -, hp⟩ | ⟨a, e, -, -, hp⟩ | ⟨a, r, -, hr, hfit, hp⟩ | ⟨a, r, -, -, -, hp⟩ := perform_cases operand op s <;>
    rw [hp] at h
  · cases h
  · exact ⟨_, legalResponse_errResponse _ e, (Host.Outcome.next.inj h).symm⟩
  · exact ⟨_, (legalResponse_okResponse _ r).trans (hlegal a r hr hfit), (Host.Outcome.next.inj h).symm⟩
  · cases h

theorem runRequest_delivers_legal (h : runRequest s = .next t) :
    ∃ r, legalResponse s.maxFrameBytes r = true ∧ t = s.deliver r := by
  cases hreq : s.request with
  | none => rw [runRequest_of_idle hreq] at h; cases h
  | some req =>
    obtain ⟨i, -, hrun⟩ | ⟨x, -, hrun⟩ := runRequest_cases hreq <;> rw [hrun] at h
    · exact exec_delivers_legal h
    · exact ⟨_, legalResponse_errResponse _ _, (Host.Outcome.next.inj h).symm⟩

/-! ### The invariant under each update of the state -/

theorem mem_modify {α : Type} {l : List α} {k : Nat} {f : α → α} {b : α} (h : b ∈ l.modify k f) :
    ∃ a ∈ l, b = a ∨ b = f a := by
  obtain ⟨j, hj⟩ := List.mem_iff_getElem?.mp h
  rw [List.getElem?_modify] at hj
  obtain ⟨a, ha, hb⟩ := Option.map_eq_some_iff.mp hj
  refine ⟨a, List.mem_of_getElem? ha, ?_⟩
  split at hb
  · exact .inr hb.symm
  · exact .inl hb.symm

/-- What leaves the capacity and the number of channels and adds to a channel's responses only legal ones keeps the
invariant. -/
theorem legalState_of_responses (h : LegalState s) (hcap : t.maxFrameBytes = s.maxFrameBytes)
    (hlen : t.channels.length = s.channels.length)
    (hresp : ∀ c ∈ t.channels, ∃ d ∈ s.channels, ∀ r ∈ c.responses,
      r ∈ d.responses ∨ legalResponse s.maxFrameBytes r = true) : LegalState t := by
  obtain ⟨hone, hlegal⟩ := h
  refine ⟨hone.trans_eq hlen.symm, fun c hc r hr => ?_⟩
  obtain ⟨d, hd, hsub⟩ := hresp c hc
  rw [hcap]
  exact (hsub r hr).elim (hlegal d hd r) id

theorem legalState_deliver {r : Response} (h : LegalState s) (hr : legalResponse s.maxFrameBytes r = true) :
    LegalState (s.deliver r) := by
  refine legalState_of_responses h rfl (by simp) fun c hc => ?_
  obtain ⟨d, hd, rfl | rfl⟩ := mem_modify hc
  · exact ⟨c, hd, fun _ => .inl⟩
  · refine ⟨d, hd, fun r' hr' => ?_⟩
    obtain hold | rfl := (List.mem_append.mp hr').imp_right List.mem_singleton.mp
    · exact .inl hold
    · exact .inr hr

theorem legalState_accept (h : LegalState s) (k : Nat) (req : Request) (ts : List Turn) :
    LegalState (s.accept k req ts) := by
  refine legalState_of_responses h rfl (by simp) fun c hc => ?_
  obtain ⟨d, hd, rfl | rfl⟩ := mem_modify hc <;> exact ⟨_, hd, fun _ => .inl⟩

theorem legalState_assertReset (h : LegalState s) (ts : List Turn) : LegalState (s.assertReset ts) := by
  refine legalState_of_responses h rfl (by simp) fun c hc => ?_
  obtain ⟨d, hd, rfl⟩ := List.mem_map.mp hc
  exact ⟨d, hd, fun _ => .inl⟩

end legal

/-! ### The claims -/

/-- Settles O13: a step captures, resets, uses up a turn or delivers one response, and every response an operation
delivers is legal. -/
theorem stepKeepsEveryResponseLegal : Obligations.StepKeepsEveryResponseLegal := by
  intro s t hs h
  obtain ⟨-, rfl⟩ | ⟨ts, -, rfl⟩ | ⟨k, req, ts, -, rfl⟩ | ⟨k, ts, -, hrun⟩ | ⟨ts, -, rfl⟩ := step_cases h
  · exact hs
  · exact hs
  · exact legalState_accept hs k req ts
  · obtain ⟨r, hr, rfl⟩ := runRequest_delivers_legal hrun
    exact legalState_deliver (s := s.select k ts) hs hr
  · exact legalState_assertReset hs ts

/-- Settles O2: both sides say that the reserved field is zero and `OP` is the operation's code. -/
theorem decodesExactlyTheEncodedWords : Obligations.DecodesExactlyTheEncodedWords :=
  fun _ _ => decode_eq_ok_iff.trans eq_encode_iff.symm

/-- Settles O3: a reserved word is rejected by the decode, before the operand is looked at. -/
theorem reservedCommandAnswersIllegalOperation : Obligations.ReservedCommandAnswersIllegalOperation := by
  intro s k rest req hplan hreq hreserved
  obtain ⟨x, hd⟩ := decode_reserved hreserved
  rw [step_of_perform hplan]
  exact runRequest_of_decode_error (s := s.select k rest) hreq hd

/-- Settles O17, by the case of each operation in `exec_answers`. -/
theorem everyOperationAnswersWithinInterface : Obligations.EveryOperationAnswersWithinInterface :=
  fun _ _ _ ho hwf => exec_answers ho hwf

/-- Settles O1: the six words are those of `encode`, and an `OP` without an operation is 0 or at least 7. -/
theorem commandWordsOfTable : Obligations.CommandWordsOfTable := by
  have hencode (i : Instr) : decode (encode i) = .ok i := (decodesExactlyTheEncodedWords _ i).mpr rfl
  exact ⟨hencode .tagPack, hencode .tagUnpack, hencode .frameEncode, hencode .frameEncodeFcs, hencode .frameDecode,
    hencode .frameDecodeFcs, fun op hop => decode_eq_reservedOp_iff.mpr ⟨cmdRsv_append .., by rwa [cmdOp_append]⟩⟩

/-- Settles O4: the status word of each code, evaluated. -/
theorem responseWordOfEachStatus : Obligations.ResponseWordOfEachStatus :=
  ⟨fun _ => rfl, rfl, rfl, rfl, rfl, rfl⟩

/-- Settles O5: the step performs the request of the selected channel, and its decode selects the operation. -/
theorem stepRunsTheDecodedOperation : Obligations.StepRunsTheDecodedOperation := by
  intro s k rest req i hplan hreq hd
  rw [step_of_perform hplan]
  exact runRequest_of_decode_ok (s := s.select k rest) hreq hd

/-- Settles O20: a buffer of the right kind is refused by its length, and any other operand by its kind. -/
theorem foreignOperandIsRefused : Obligations.ForeignOperandIsRefused := by
  refine ⟨fun s b ho hcap h2 => ?_, fun s b ho => ?_, fun s t ho i hi => ?_, fun s F ho i hi hfcs => ?_,
    fun s ho i => ?_⟩
  · exact perform_refuses ((twoBytesOperand_eq ho).trans (asTwoBytes_of_length_ne h2 hcap))
  · exact ⟨exec_refuses_foreign ho rfl, exec_refuses_foreign ho rfl, exec_refuses_foreign ho rfl⟩
  · refine exec_refuses_foreign ho ?_
    cases i with
    | tagPack => exact absurd rfl hi
    | tagUnpack | frameEncode | frameEncodeFcs | frameDecode | frameDecodeFcs => rfl
  · refine exec_refuses_foreign ho ?_
    cases i with
    | frameEncode => exact absurd rfl hi
    | frameEncodeFcs => exact absurd rfl hfcs
    | tagPack | tagUnpack | frameDecode | frameDecodeFcs => rfl
  · exact exec_refuses_foreign ho (by cases i <;> rfl)

end Sys2Proof.Proofs
end

section
/-! The claims of 40_vlan_tag.md: TAG_PACK answers the 2 bytes of the tag control field, TAG_UNPACK the record those
bytes hold, and the two are inverse to each other. The lemmas before them tie the machine's arithmetic on the control
field to the bit layout of R77 and R78, and show that the layout loses nothing. -/

namespace Sys2Proof.Proofs

open Sys2Proof Sys2Proof.Machine Sys2Proof.Safety Sys2Proof.Laws

/-! ### Two bytes and the 16-bit field they hold -/

theorem toNat_append_eq_add {m n : Nat} (x : BitVec m) (y : BitVec n) :
    (x ++ y).toNat = x.toNat * 2 ^ n + y.toNat := by
  rw [BitVec.toNat_append, ← Nat.shiftLeft_add_eq_or_of_lt y.isLt, Nat.shiftLeft_eq]

theorem beValue_pair (w0 w1 : Byte) : beValue [w0, w1] = (w0 ++ w1).toNat := by
  rw [toNat_append_eq_add]
  simp [beValue]

theorem be16_append (w0 w1 : Byte) : be16 (w0 ++ w1) = [w0, w1] := by
  rw [be16, ← beValue_pair]
  exact beBytes_beValue [w0, w1]

/-! ### The machine's codec is the bit layout -/

/-- R100 adds `pcp`, `dei` and `vid` at their weights; for a `vid` of 12 bits nothing overlaps, so the sum is the
concatenation of R78. -/
theorem packTCI_eq_tciBytes {t : TagRecord} (h : t.vid.toNat ≤ 4095) : packTCI t = .ok (tciBytes t) := by
  have hfield : BitVec.ofNat 16 (t.pcp.toNat * 2 ^ 13 + t.dei.toNat * 2 ^ 12 + t.vid.toNat)
      = (t.pcp ++ t.dei ++ t.vid.extractLsb' 8 4) ++ t.vid.extractLsb' 0 8 := by
    apply BitVec.eq_of_toNat_eq
    simp only [toNat_append_eq_add, BitVec.extractLsb'_toNat, BitVec.toNat_ofNat, Nat.shiftRight_eq_div_pow]
    omega
  rw [packTCI, if_neg (by simpa using h), hfield, be16_append, tciBytes]

theorem packTCI_eq_invalidVlanId {t : TagRecord} (h : 4095 < t.vid.toNat) : packTCI t = .error .invalidVlanId :=
  if_pos h

theorem unpackTCI_eq_tagOf (w0 w1 : Byte) : unpackTCI [w0, w1] = tagOf w0 w1 := by
  have hfield : BitVec.ofNat 16 (beValue [w0, w1]) = w0 ++ w1 := by
    rw [beValue_pair, BitVec.ofNat_toNat, BitVec.setWidth_eq]
  have hvid : (w0 ++ w1).extractLsb' 0 12 = w0.extractLsb' 0 4 ++ w1 := by
    rw [BitVec.extractLsb'_append_eq_ite]
    simp
  rw [unpackTCI, tagOf, hfield, hvid, BitVec.extractLsb'_append_eq_of_le (by decide),
    BitVec.extractLsb'_append_eq_of_le (by decide)]

/-! ### The bit layout loses nothing -/

theorem tagOf_of_tciBytes {t : TagRecord} (h : t.vid.toNat ≤ 4095) :
    tagOf (t.pcp ++ t.dei ++ t.vid.extractLsb' 8 4) (t.vid.extractLsb' 0 8) = t := by
  have hpcp : (t.pcp ++ t.dei ++ t.vid.extractLsb' 8 4).extractLsb' 5 3 = t.pcp := by
    rw [BitVec.extractLsb'_append_eq_of_le (by decide)]
    exact BitVec.extractLsb'_append_eq_left
  have hdei : (t.pcp ++ t.dei ++ t.vid.extractLsb' 8 4).extractLsb' 4 1 = t.dei := by
    rw [BitVec.extractLsb'_append_eq_of_le (by decide)]
    exact BitVec.extractLsb'_append_eq_right
  have hvid : (t.vid.extractLsb' 8 4 ++ t.vid.extractLsb' 0 8).setWidth 16 = t.vid := by
    rw [BitVec.extractLsb'_append_extractLsb'_eq_extractLsb' (start₂ := 8) rfl]
    apply BitVec.eq_of_toNat_eq
    simp only [BitVec.toNat_setWidth, BitVec.extractLsb'_toNat, Nat.shiftRight_zero]
    omega
  rw [tagOf, hpcp, hdei, BitVec.extractLsb'_append_eq_right, hvid]

theorem tciBytes_tagOf (w0 w1 : Byte) : tciBytes (tagOf w0 w1) = [w0, w1] := by
  have hhigh : w0.extractLsb' 5 3 ++ w0.extractLsb' 4 1 ++ w0.extractLsb' 0 4 = w0 := by
    rw [BitVec.extractLsb'_append_extractLsb'_eq_extractLsb' (start₂ := 5) rfl,
      BitVec.extractLsb'_append_extractLsb'_eq_extractLsb' (start₂ := 4) rfl, BitVec.extractLsb'_eq_self]
  rw [tciBytes, tagOf, BitVec.extractLsb'_setWidth_of_le (by decide), BitVec.extractLsb'_setWidth_of_le (by decide),
    BitVec.extractLsb'_append_eq_left, BitVec.extractLsb'_append_eq_right, hhigh]

theorem tagOf_vid_le (w0 w1 : Byte) : (tagOf w0 w1).vid.toNat ≤ 4095 :=
  unpackTCI_eq_tagOf w0 w1 ▸ unpackTCI_vid_le [w0, w1]

/-! ### The claims -/

/-- Settles O21: packing decides between the error and the 2 bytes of the layout. -/
theorem tagPackAnswersControlField : Obligations.TagPackAnswersControlField := by
  intro s t ho
  have htag := (tagOperand_eq ho).trans (asTag_tag t)
  refine ⟨fun hbig => ?_, fun hvid hcap => ?_⟩
  · exact perform_raises htag (by rw [packTCI_eq_invalidVlanId hbig]; rfl)
  · exact perform_returns htag (map_eq_ok.mpr ⟨_, packTCI_eq_tciBytes hvid, rfl⟩) hcap

/-- Settles O22: the operand is taken, unpacking it never raises, and a tag record fits every capacity. -/
theorem tagUnpackAnswersTagRecord : Obligations.TagUnpackAnswersTagRecord := by
  intro s w0 w1 ho hcap
  have hbytes := (twoBytesOperand_eq ho).trans (asTwoBytes_bytes rfl hcap)
  exact perform_returns hbytes (congrArg (Except.ok ∘ Result.tag) (unpackTCI_eq_tagOf w0 w1)) (Nat.zero_le _)

/-- Settles O23: both directions go through the bit layout, which is lossless either way. -/
theorem tagCodecIsLossless : Obligations.TagCodecIsLossless := by
  refine ⟨fun t hvid => ?_, fun w hlen => ?_⟩
  · exact ⟨tciBytes t, packTCI_eq_tciBytes hvid, rfl, (unpackTCI_eq_tagOf _ _).trans (tagOf_of_tciBytes hvid)⟩
  · obtain ⟨w0, w1, rfl⟩ := List.length_eq_two.mp hlen
    rw [unpackTCI_eq_tagOf, packTCI_eq_tciBytes (tagOf_vid_le w0 w1), tciBytes_tagOf]

end Sys2Proof.Proofs
end

section
/-! The claims of 41_crc32.md and R147: the reflected CRC is the normal-form CRC, an appended FCS verifies and every
single-bit inversion is detected, a 4-byte buffer passes only when it is zero, and FRAME_ENCODE_FCS answers the wire
layout followed by its FCS. The lemmas before them say how reflection turns one register into the other, that the CRC
loses no information about any single byte, when an FCS passes, and that the encoder's writes lay out the frame. -/

namespace Sys2Proof.Proofs

open Sys2Proof Sys2Proof.Machine Sys2Proof.Safety Sys2Proof.Laws

/-! ### Reflection turns the register of R120 into the register of R121 -/

theorem reverse_xor {n : Nat} (x y : BitVec n) : (x ^^^ y).reverse = x.reverse ^^^ y.reverse := by
  apply BitVec.eq_of_getLsbD_eq
  intro i hi
  simp [BitVec.getLsbD_reverse, BitVec.getMsbD_xor]

theorem reverse_ushiftRight {n : Nat} (x : BitVec n) (k : Nat) : (x >>> k).reverse = x.reverse <<< k := by
  apply BitVec.eq_of_getMsbD_eq
  intro i hi
  simp [BitVec.getMsbD_reverse, Nat.add_comm]

theorem reverse_setWidth_byte (b : Byte) : (b.setWidth 32).reverse = b.reverse.setWidth 32 <<< 24 := by
  apply BitVec.eq_of_getMsbD_eq
  intro i hi
  simp [BitVec.getMsbD_reverse, BitVec.getMsbD_setWidth, hi]

theorem reverse_crcShift (c : Word) : (crcShift c).reverse = normalShift c.reverse := by
  have hpoly : crcPoly.reverse = 0x04C11DB7 := by decide +kernel
  unfold crcShift normalShift
  rw [BitVec.getMsbD_reverse]
  split
  · rw [reverse_xor, reverse_ushiftRight, hpoly]
  · rw [reverse_ushiftRight]

theorem reverse_crcShifts (n : Nat) (c : Word) : (crcShifts n c).reverse = normalShifts n c.reverse := by
  induction n generalizing c with
  | zero => rfl
  | succ n ih => rw [crcShifts, ih, reverse_crcShift, normalShifts]

theorem reverse_crcByte (c : Word) (b : Byte) : (crcByte c b).reverse = normalByte c.reverse b := by
  rw [crcByte, reverse_crcShifts, reverse_xor, reverse_setWidth_byte, normalByte]

/-! ### The CRC loses no information about any single byte -/

/-- The shifts are linear over XOR and send only 0 to 0, so no two registers are sent to the same one. -/
theorem crcShifts_injective (n : Nat) : Function.Injective (crcShifts n) := by
  intro c d h
  apply BitVec.xor_eq_zero_iff.mp
  apply crcShifts_eq_zero (n := n)
  rw [crcShifts_xor, h]
  exact BitVec.xor_self

theorem crcByte_left_injective (b : Byte) : Function.Injective (crcByte · b) := fun _ _ h =>
  (BitVec.xor_left_inj _).mp (crcShifts_injective 8 h)

theorem crcByte_right_injective (c : Word) : Function.Injective (crcByte c) := by
  intro x y h
  have hwide : x.setWidth 32 = y.setWidth 32 := (BitVec.xor_right_inj c).mp (crcShifts_injective 8 h)
  simpa using congrArg (BitVec.setWidth 8) hwide

theorem foldl_crcByte_injective (b : List Byte) : Function.Injective (b.foldl crcByte) := by
  induction b with
  | nil => exact fun _ _ h => h
  | cons x xs ih => exact fun _ _ h => crcByte_left_injective x (ih h)

/-- Registers that differ after the changed byte never meet again, since every later byte is absorbed injectively. -/
theorem foldl_crcByte_modify_ne {f : Byte → Byte} (hf : ∀ x, f x ≠ x) {b : List Byte} {i : Nat} (hi : i < b.length)
    (c : Word) : (b.modify i f).foldl crcByte c ≠ b.foldl crcByte c := by
  induction b generalizing i c with
  | nil => cases hi
  | cons x xs ih =>
    cases i with
    | zero => exact fun h => hf x (crcByte_right_injective c (foldl_crcByte_injective xs h))
    | succ i => exact ih (Nat.lt_of_succ_lt_succ hi) (crcByte c x)

theorem crc32_flipBit_ne {b : List Byte} {i : Nat} (hi : i < b.length) (j : Fin 8) :
    crc32 (flipBit b i j) ≠ crc32 b := by
  have hflip : ∀ x : Byte, x ^^^ BitVec.twoPow 8 j ≠ x := by revert j; decide
  exact fun h => foldl_crcByte_modify_ne hflip hi crcMask ((BitVec.xor_left_inj crcMask).mp h)

/-- An inversion changes the CRC of the bytes, so it changes the bytes. -/
theorem flipBit_ne {b : List Byte} {i : Nat} (hi : i < b.length) (j : Fin 8) : flipBit b i j ≠ b := fun h =>
  crc32_flipBit_ne hi j (congrArg crc32 h)

/-! ### When an FCS passes -/

/-- The CRC of no bytes (R122): the initial value and the final XOR cancel. -/
theorem crc32_nil : crc32 [] = 0 := BitVec.xor_self

theorem length_flipBit (b : List Byte) (i : Nat) (j : Fin 8) : (flipBit b i j).length = b.length :=
  List.length_modify ..

theorem flipBit_append (a b : List Byte) (i : Nat) (j : Fin 8) : flipBit (a ++ b) i j
    = if i < a.length then flipBit a i j ++ b else a ++ flipBit b (i - a.length) j := by
  induction a generalizing i with
  | nil => rfl
  | cons x xs ih =>
    cases i with
    | zero => rfl
    | succ i =>
      refine (congrArg (x :: ·) (ih i)).trans ?_
      simp only [List.length_cons, Nat.add_lt_add_iff_right, Nat.add_sub_add_right]
      split <;> rfl

theorem beValue_be32 (w : Word) : beValue (be32 w) = w.toNat :=
  (beValue_beBytes 4 w.toNat).trans (Nat.mod_eq_of_lt w.isLt)

theorem be32_injective : Function.Injective be32 := fun w w' h =>
  BitVec.eq_of_toNat_eq (by rw [← beValue_be32, h, beValue_be32])

theorem eq_be32_iff (w : Word) {fcs : List Byte} (hlen : fcs.length = 4) : fcs = be32 w ↔ w.toNat = beValue fcs := by
  refine ⟨?_, fun h => ?_⟩
  · rintro rfl
    exact (beValue_be32 w).symm
  · rw [be32, h, ← hlen, beBytes_beValue]

/-- R125: a buffer passes when its last 4 bytes are the big-endian CRC-32 of the bytes before them. -/
theorem verifyFCS_append (body : List Byte) {fcs : List Byte} (hlen : fcs.length = 4) :
    verifyFCS (body ++ fcs) = if fcs = be32 (crc32 body) then .ok body else .error .invalidChecksum := by
  obtain ⟨hshort, -⟩ | ⟨body', fcs', happ, hlen', hcase⟩ := verifyFCS_cases (body ++ fcs)
  · simp [hlen] at hshort
  · obtain ⟨rfl, rfl⟩ := List.append_inj' happ (hlen.trans hlen'.symm)
    obtain ⟨heq, hok⟩ | ⟨hne, herr⟩ := hcase
    · rw [hok, if_pos ((eq_be32_iff _ hlen).mpr heq)]
    · rw [herr, if_neg (hne ∘ (eq_be32_iff _ hlen).mp)]

/-! ### Multi-byte fields, byte by byte -/

theorem be32_eq_wordBytes (w : Word) : be32 w = wordBytes w := by
  simp [be32, beBytes, wordBytes, BitVec.extractLsb', Nat.shiftRight_eq_div_pow]

theorem be16_eq_halfBytes (v : Half) : be16 v = halfBytes v := by
  simp [be16, beBytes, halfBytes, BitVec.extractLsb', Nat.shiftRight_eq_div_pow]

@[simp] theorem length_halfBytes (v : Half) : (halfBytes v).length = 2 := rfl

@[simp] theorem length_tciBytes (t : TagRecord) : (tciBytes t).length = 2 := rfl

/-! ### The encoder's writes are the wire layout -/

/-- The packed control field of a tag that may be absent: what `packPresent` gives when the identifier fits (R141). -/
def packedTag (t : Option TagRecord) : List Byte := t.elim [] tciBytes

theorem packPresent_eq_packedTag {t : Option TagRecord} (h : t.all vidInRange = true) :
    packPresent t = .ok (packedTag t) := by
  cases t with
  | none => rfl
  | some t => exact packTCI_eq_tciBytes (by simpa [vidInRange] using h)

/-- A write at the end of the bytes laid out so far, `done`, takes the place of as many zeros. -/
theorem writeBytes_zeros {done b : List Byte} {off m : Nat} (n : Nat) (hoff : off = done.length)
    (hm : m = b.length + n) : writeBytes (done ++ zeros m) off b = done ++ b ++ zeros n := by
  rw [hoff, hm, zeros, List.replicate_add, ← List.append_assoc]
  exact writeBytes_append (length_zeros _)

theorem memWrite_zeros {done : List Byte} {off m : Nat} (v : Half) (n : Nat) (hoff : off = done.length)
    (hm : m = 2 + n) : memWrite (done ++ zeros m) off 2 v.toNat = done ++ halfBytes v ++ zeros n := by
  rw [← be16_eq_halfBytes]
  exact writeBytes_zeros n hoff hm

/-- The writer of an encoder that has laid out the bytes `done`, with `n` bytes to come (R142, R146). -/
def writerAfter (done : List Byte) (n : Nat) : Writer := { out := done ++ zeros n, off := done.length }

theorem putTag_writerAfter (d : Half) (t : Option TagRecord) (done : List Byte) (n : Nat) :
    putTag t.isSome d (packedTag t) (writerAfter done (4 * t.isSome.toNat + n))
      = writerAfter (done ++ tagLayer d t) n := by
  cases t with
  | none => simp [putTag, writerAfter, tagLayer]
  | some t =>
    have hout : writeBytes (memWrite (done ++ zeros (4 + n)) done.length 2 d.toNat) (done.length + 2) (tciBytes t)
        = done ++ halfBytes d ++ tciBytes t ++ zeros n := by
      rw [memWrite_zeros d (2 + n) rfl (by omega)]
      exact writeBytes_zeros n (by simp) rfl
    simp [putTag, writerAfter, packedTag, tagLayer, hout]

theorem writeAddrs_zeros (dst src : Addr) (n : Nat) :
    writeBytes (writeBytes (zeros (12 + n)) 0 (addrBytes dst)) 6 (addrBytes src)
      = addrBytes dst ++ addrBytes src ++ zeros n := by
  have hdst : writeBytes (zeros (12 + n)) 0 (addrBytes dst) = addrBytes dst ++ zeros (6 + n) :=
    writeBytes_zeros (done := []) (6 + n) rfl (by rw [length_addrBytes]; omega)
  rw [hdst]
  exact writeBytes_zeros n rfl rfl

/-- Field by field, the encoder's writes put the wire layout in place of the zeros (R142 to R145). -/
theorem fillFrame_eq_layout (F : FrameRecord) : fillFrame F (packedTag F.outer) (packedTag F.inner) = layout F := by
  let addrs := addrBytes F.dst ++ addrBytes F.src
  let body := max F.payload.length 46
  unfold fillFrame
  extract_lets N w wOuter wInner
  have hN : N = 12 + (4 * F.outer.isSome.toNat + (4 * F.inner.isSome.toNat + (2 + body))) := by
    simp only [N, body, tagCount_eq, Config.minPayload]
    omega
  have hw : w = writerAfter addrs (4 * F.outer.isSome.toNat + (4 * F.inner.isSome.toNat + (2 + body))) := by
    simp only [w, hN, writeAddrs_zeros]
    rfl
  have hOuter : wOuter = writerAfter (addrs ++ tagLayer 0x88A8 F.outer) (4 * F.inner.isSome.toNat + (2 + body)) :=
    (congrArg _ hw).trans (putTag_writerAfter ..)
  have hInner : wInner = writerAfter (addrs ++ tagLayer 0x88A8 F.outer ++ tagLayer 0x8100 F.inner) (2 + body) :=
    (congrArg _ hOuter).trans (putTag_writerAfter ..)
  rw [hInner, writerAfter, memWrite_zeros F.etherType body rfl rfl,
    writeBytes_zeros (46 - F.payload.length) (by simp [Nat.add_assoc]) (by omega)]
  rfl

theorem encodeFrame_eq_layout {F : FrameRecord} (h : accepted F = true) : encodeFrame F = .ok (layout F) := by
  obtain ⟨hstack, hvids⟩ := Bool.and_eq_true_iff.mp h
  obtain ⟨houter, hinner⟩ := Bool.and_eq_true_iff.mp hvids
  rw [encodeFrame_of_packed (by simpa only [wellStacked, Bool.not_eq_true'] using hstack)
    (packPresent_eq_packedTag houter) (packPresent_eq_packedTag hinner), fillFrame_eq_layout]

/-! ### The claims -/

/-- Settles O29: reflection carries the register of R120 through the bytes to the register of R121. -/
theorem crcEqualsNormalForm : Obligations.CrcEqualsNormalForm := by
  intro b
  have hinit : (0xFFFFFFFF : Word) = crcMask.reverse := by decide +kernel
  have hfold : b.foldl normalByte crcMask.reverse = (b.foldl crcByte crcMask).reverse :=
    List.foldl_hom BitVec.reverse fun c x => (reverse_crcByte c x).symm
  rw [normalCrc, hinit, hfold, BitVec.reverse_reverse_eq, ← hinit]
  rfl

/-- Settles O30: an inversion in the bytes changes their CRC, and one in the FCS changes the FCS alone. -/
theorem fcsDetectsEverySingleBitFlip : Obligations.FcsDetectsEverySingleBitFlip := by
  refine fun b => ⟨(verifyFCS_append b (length_be32 _)).trans (if_pos rfl), fun i j hi => ?_⟩
  rw [length_appendFCS] at hi
  rw [appendFCS, flipBit_append]
  split
  · next hbody =>
    rw [verifyFCS_append _ (length_be32 _), if_neg]
    exact fun h => crc32_flipBit_ne hbody j (be32_injective h).symm
  · next hfcs =>
    rw [verifyFCS_append _ (length_flipBit ..), if_neg]
    exact flipBit_ne (by rw [length_be32]; omega) j

/-- Settles O25: the encoder gives the layout, AppendFCS the bytes of its CRC, and the result fits the capacity. -/
theorem frameEncodeFcsAnswersLayoutAndFcs : Obligations.FrameEncodeFcsAnswersLayoutAndFcs := by
  have happend : ∀ b, appendFCS b = b ++ wordBytes (crc32 b) := fun b => congrArg (b ++ ·) (be32_eq_wordBytes _)
  refine ⟨fun b => ⟨happend b, length_appendFCS b⟩, fun s F ho hacc hin hcap => ?_⟩
  have hfcs : encodeFrameFCS F = .ok (layout F ++ wordBytes (crc32 (layout F))) :=
    map_eq_ok.mpr ⟨_, encodeFrame_eq_layout hacc, happend _⟩
  exact perform_returns ((frameOperand_eq ho).trans (asFrame_frame hin)) (map_eq_ok.mpr ⟨_, hfcs, rfl⟩)
    ((length_encodeFrameFCS hfcs).trans_le hcap)

/-- Settles O31: all 4 bytes are the FCS of the empty body, whose CRC is 0. -/
theorem fourByteBufferPassesOnlyWhenZero : Obligations.FourByteBufferPassesOnlyWhenZero := by
  intro b0 b1 b2 b3
  have hfcs : be32 (crc32 []) = [0, 0, 0, 0] := by rw [crc32_nil]; rfl
  rw [← List.nil_append [b0, b1, b2, b3], verifyFCS_append [] rfl, hfcs]
  simp

/-- Settles O28, the check string by running the bit loop on it. -/
theorem crcOfEmptyAndCheckString : Obligations.CrcOfEmptyAndCheckString :=
  ⟨crc32_nil, by decide +kernel⟩

end Sys2Proof.Proofs
end

section
/-! The claims of 42_frame_encode.md: FRAME_ENCODE answers the wire layout, both encodes check the stacking before the
identifiers, and how long an encoding is. The lemmas before them say which error the encoder's checks raise. -/

namespace Sys2Proof.Proofs

open Sys2Proof Sys2Proof.Machine Sys2Proof.Safety Sys2Proof.Laws

/-! ### The encoder's checks, in the order of R209 -/

theorem outerOnly_iff (F : FrameRecord) :
    (F.outer.isSome && F.inner.isNone) = true ↔ F.outer ≠ none ∧ F.inner = none := by
  rw [Bool.and_eq_true_iff, Option.isSome_iff_ne_none, Option.isNone_iff_eq_none]

theorem encodeFrame_of_outerOnly {F : FrameRecord} (h : F.outer ≠ none ∧ F.inner = none) :
    encodeFrame F = .error .invalidVlanStacking :=
  if_pos ((outerOnly_iff F).mpr h)

theorem encodeFrame_of_not_outerOnly {F : FrameRecord} (h : ¬(F.outer ≠ none ∧ F.inner = none)) :
    encodeFrame F = packPresent F.outer >>= fun otci => packPresent F.inner >>= fun itci =>
      .ok (fillFrame F otci itci) :=
  if_neg (h ∘ (outerOnly_iff F).mp)

/-- Packing a tag that may be absent raises nothing but InvalidVlanId. -/
theorem packPresent_ok_or_invalidVlanId (t : Option TagRecord) :
    (∃ w, packPresent t = .ok w) ∨ packPresent t = .error .invalidVlanId := by
  cases t with
  | none => exact .inl ⟨[], rfl⟩
  | some t =>
    obtain ⟨-, w, hw, -⟩ | ⟨-, herr⟩ := packTCI_cases t
    · exact .inl ⟨w, hw⟩
    · exact .inr herr

/-- Either check may fail first, and both raise the same error. -/
theorem encodeFrame_eq_invalidVlanId {F : FrameRecord} {t : TagRecord} (h : ¬(F.outer ≠ none ∧ F.inner = none))
    (ht : F.outer = some t ∨ F.inner = some t) (hbig : 4095 < t.vid.toNat) :
    encodeFrame F = .error .invalidVlanId := by
  have hpack : packPresent (some t) = .error .invalidVlanId := packTCI_eq_invalidVlanId hbig
  rw [encodeFrame_of_not_outerOnly h]
  obtain ⟨otci, hok⟩ | herr := packPresent_ok_or_invalidVlanId F.outer
  · obtain houter | hinner := ht
    · rw [houter, hpack] at hok
      cases hok
    · rw [hok, hinner, hpack]
      rfl
  · rw [herr]
    rfl

/-- The errors of EncodeFrame are those of both encode operations (R146, R147). -/
theorem exec_encode_raises {i : Instr} {s : State} {F : FrameRecord} {e : Err}
    (hi : i = .frameEncode ∨ i = .frameEncodeFcs) (ho : Presents s (.frame F))
    (hin : F.payload.length ≤ s.maxFrameBytes) (he : encodeFrame F = .error e) :
    exec i s = .next (s.deliver (errResponse e)) := by
  have hframe := (frameOperand_eq ho).trans (asFrame_frame hin)
  obtain rfl | rfl := hi
  · exact perform_raises hframe (by rw [he]; rfl)
  · exact perform_raises hframe (by rw [encodeFrameFCS, he]; rfl)

/-! ### The number of tags of R142 -/

theorem tagCount_eq_of_none (F : FrameRecord) :
    F.tagCount = (if F.outer = none then 0 else 1) + (if F.inner = none then 0 else 1) := by
  simp only [FrameRecord.tagCount, Option.isSome_iff_ne_none, ne_eq, ite_not]

/-! ### The claims -/

/-- Settles O24: the encoder gives the layout, and the result fits the capacity. -/
theorem frameEncodeAnswersLayout : Obligations.FrameEncodeAnswersLayout := by
  intro s F ho hacc hin hcap
  have hlayout := encodeFrame_eq_layout hacc
  exact perform_returns ((frameOperand_eq ho).trans (asFrame_frame hin)) (map_eq_ok.mpr ⟨_, hlayout, rfl⟩)
    ((length_encodeFrame hlayout).trans_le hcap)

/-- Settles O26: the stacking check comes first, whatever the identifiers, and the identifier checks after it. -/
theorem encodeChecksStackingThenIdentifiers : Obligations.EncodeChecksStackingThenIdentifiers := by
  intro i s F hi ho hin
  refine ⟨fun houter hinner => ?_, fun hstack ⟨t, ht, hbig⟩ => ?_⟩
  · exact exec_encode_raises hi ho hin (encodeFrame_of_outerOnly ⟨houter, hinner⟩)
  · exact exec_encode_raises hi ho hin (encodeFrame_eq_invalidVlanId hstack ht hbig)

/-- Settles O27: the encoding is as long as its header and padded payload, and AppendFCS adds 4 bytes. -/
theorem encodedLengthIsHeaderPlusPaddedPayload : Obligations.EncodedLengthIsHeaderPlusPaddedPayload := by
  intro F b h
  refine ⟨?_, appendFCS b, map_eq_ok.mpr ⟨b, h, rfl⟩, length_appendFCS b⟩
  rw [length_encodeFrame h, FrameRecord.encodedLength, FrameRecord.headerLength, tagCount_eq_of_none, Config.minPayload]
  omega

end Sys2Proof.Proofs
end

section
/-! The claims of 43_frame_decode.md: what a decode answers for an untagged, a single-tagged and a double-tagged buffer,
which error comes first, what every decoded record satisfies, and the round trips through encode. The lemmas before them
say which fields a decode reads from the buffer, and what it gives for each field at offset 12. -/

namespace Sys2Proof.Proofs

open Sys2Proof Sys2Proof.Machine Sys2Proof.Safety Sys2Proof.Laws

/-! ### The fields of a buffer -/

/-- The tag record of the tag control field at offset `off`, next to `fieldAt`. -/
def tagAt (buf : List Byte) (off : Nat) : TagRecord := tagOf (buf.getD off 0) (buf.getD (off + 1) 0)

section reads

variable {buf : List Byte} {off : Nat}

theorem take_two_drop (h : off + 2 ≤ buf.length) :
    (buf.drop off).take 2 = [buf.getD off 0, buf.getD (off + 1) 0] := by
  have h0 : off < buf.length := by omega
  have h1 : off + 1 < buf.length := by omega
  rw [List.drop_eq_getElem_cons h0, List.drop_eq_getElem_cons h1, List.getD_eq_getElem _ _ h0,
    List.getD_eq_getElem _ _ h1]
  rfl

theorem fieldAt_of_drop {w0 w1 : Byte} {rest : List Byte} (h : buf.drop off = w0 :: w1 :: rest) :
    fieldAt buf off = w0 ++ w1 := by
  have h0 : buf[off]? = some w0 := List.getElem?_drop.symm.trans (congrArg (·[0]?) h)
  have h1 : buf[off + 1]? = some w1 := List.getElem?_drop.symm.trans (congrArg (·[1]?) h)
  simp [fieldAt, List.getD_eq_getElem?_getD, h0, h1]

theorem readHalf_eq_fieldAt (h : off + 2 ≤ buf.length) : readHalf buf off = .ok (fieldAt buf off) := by
  rw [readHalf_ok h, take_two_drop h, beValue_pair, BitVec.ofNat_toNat, BitVec.setWidth_eq, fieldAt]

theorem readTag_eq_tagAt (h : off + 2 ≤ buf.length) : readTag buf off = .ok (tagAt buf off) := by
  rw [readTag_ok h, take_two_drop h, unpackTCI_eq_tagOf, tagAt]

/-- A tag control field and the field after it, as every tag layer is read: in a buffer that ends before both do, one of
the two reads raises TruncatedFrame. -/
theorem readTag_bind_readHalf_truncated {α : Type} (f : TagRecord → Half → Except Err α) (h : buf.length < off + 4) :
    (readTag buf off >>= fun t => readHalf buf (off + 2) >>= f t) = .error .truncatedFrame := by
  by_cases htag : off + 2 ≤ buf.length
  · rw [readTag_eq_tagAt htag, readHalf_truncated (by omega)]
    rfl
  · rw [readTag_truncated (by omega)]
    rfl

/-- A field that was read lies inside the buffer (R51). -/
theorem length_of_readHalf_ok {v : Half} (h : readHalf buf off = .ok v) : off + 2 ≤ buf.length := by
  by_contra hshort
  rw [readHalf_truncated (by omega)] at h
  cases h

end reads

/-- The high and the low byte of a 16-bit field make it up. -/
theorem append_bytes_of_half (v : Half) : v.extractLsb' 8 8 ++ v.extractLsb' 0 8 = v := by
  rw [BitVec.extractLsb'_append_extractLsb'_eq_extractLsb' (start₂ := 8) rfl, BitVec.extractLsb'_eq_self]

theorem serviceTag_bytes : (0x88 : Byte) ++ (0xA8 : Byte) = serviceTag := by decide

theorem standardTag_bytes : (0x81 : Byte) ++ (0x00 : Byte) = standardTag := by decide

/-! ### Decode, by the field at offset 12 -/

/-- The frame record of a buffer whose header was read as `hd` (R171, R176). -/
def frameOf (buf : List Byte) (hd : Header) : FrameRecord :=
  { dst := addrOfBytes (buf.take 6), src := addrOfBytes ((buf.drop 6).take 6), outer := hd.outer, inner := hd.inner,
    etherType := hd.etherType, payload := buf.drop hd.hdr }

section decode

variable {buf : List Byte}

theorem decodeFrame_of_short (h : buf.length < 14) : decodeFrame buf = .error .truncatedFrame :=
  if_pos h

/-- From 14 bytes on, the header read alone decides between the error and the record (R171, R172). -/
theorem decodeFrame_eq_readHeader (h : 14 ≤ buf.length) :
    decodeFrame buf = (readHeader buf (fieldAt buf 12)).map (frameOf buf) := by
  refine (if_neg (not_lt.mpr h)).trans ?_
  rw [memReadBytes_ok (by omega), memReadBytes_ok (by omega), readHalf_eq_fieldAt h]
  change (readHeader buf (fieldAt buf 12)).bind (fun hd => .ok (frameOf buf hd)) = _
  cases readHeader buf (fieldAt buf 12) <;> rfl

/-- R175. -/
theorem decodeFrame_untagged (h : 14 ≤ buf.length) (hservice : fieldAt buf 12 ≠ serviceTag)
    (hstandard : fieldAt buf 12 ≠ standardTag) : decodeFrame buf
      = .ok (frameOf buf { outer := none, inner := none, etherType := fieldAt buf 12, hdr := 14 }) := by
  rw [decodeFrame_eq_readHeader h, readHeader, if_neg hservice, if_neg hstandard]
  rfl

theorem decodeFrame_of_standardTag (h : 14 ≤ buf.length) (h12 : fieldAt buf 12 = standardTag) :
    decodeFrame buf = (readSingle buf).map (frameOf buf) := by
  rw [decodeFrame_eq_readHeader h, h12, readHeader, if_neg (by decide), if_pos rfl]

theorem decodeFrame_of_serviceTag (h : 14 ≤ buf.length) (h12 : fieldAt buf 12 = serviceTag) :
    decodeFrame buf = (readDouble buf).map (frameOf buf) := by
  rw [decodeFrame_eq_readHeader h, h12, readHeader, if_pos rfl]

/-- R174. -/
theorem decodeFrame_single (h : 18 ≤ buf.length) (h12 : fieldAt buf 12 = standardTag) : decodeFrame buf
    = .ok (frameOf buf
        { outer := none, inner := some (tagAt buf 14), etherType := fieldAt buf 16, hdr := 18 }) := by
  rw [decodeFrame_of_standardTag (by omega) h12, readSingle, readTag_eq_tagAt (by omega), readHalf_eq_fieldAt h]
  rfl

theorem decodeFrame_single_truncated (h : 14 ≤ buf.length) (hshort : buf.length < 18)
    (h12 : fieldAt buf 12 = standardTag) : decodeFrame buf = .error .truncatedFrame := by
  rw [decodeFrame_of_standardTag h h12]
  exact congrArg (Except.map (frameOf buf)) (readTag_bind_readHalf_truncated _ hshort)

/-- R173. -/
theorem decodeFrame_double (h : 22 ≤ buf.length) (h12 : fieldAt buf 12 = serviceTag)
    (h16 : fieldAt buf 16 = standardTag) : decodeFrame buf
      = .ok (frameOf buf { outer := some (tagAt buf 14), inner := some (tagAt buf 18),
                           etherType := fieldAt buf 20, hdr := 22 }) := by
  rw [decodeFrame_of_serviceTag (by omega) h12, readDouble, readTag_eq_tagAt (off := 14) (by omega),
    readHalf_eq_fieldAt (off := 16) (by omega), readTag_eq_tagAt (off := 18) (by omega), readHalf_eq_fieldAt h, h16]
  rfl

theorem decodeFrame_double_truncated (h : 14 ≤ buf.length) (hshort : buf.length < 18)
    (h12 : fieldAt buf 12 = serviceTag) : decodeFrame buf = .error .truncatedFrame := by
  rw [decodeFrame_of_serviceTag h h12]
  exact congrArg (Except.map (frameOf buf)) (readTag_bind_readHalf_truncated _ hshort)

/-- The stacking is checked before anything after offset 18 is read (R173, D11). -/
theorem decodeFrame_badStacking (h : 18 ≤ buf.length) (h12 : fieldAt buf 12 = serviceTag)
    (h16 : fieldAt buf 16 ≠ standardTag) : decodeFrame buf = .error .invalidVlanStacking := by
  rw [decodeFrame_of_serviceTag (by omega) h12, readDouble, readTag_eq_tagAt (by omega), readHalf_eq_fieldAt h]
  simp [bind, Except.bind, h16, Except.map]

theorem decodeFrame_double_truncatedInner (h : 18 ≤ buf.length) (hshort : buf.length < 22)
    (h12 : fieldAt buf 12 = serviceTag) (h16 : fieldAt buf 16 = standardTag) :
    decodeFrame buf = .error .truncatedFrame := by
  rw [decodeFrame_of_serviceTag (by omega) h12, readDouble, readTag_eq_tagAt (off := 14) (by omega),
    readHalf_eq_fieldAt (off := 16) h, h16]
  exact congrArg (Except.map (frameOf buf)) (readTag_bind_readHalf_truncated _ hshort)

end decode

/-! ### Decode of the wire formats R81, R82 and R83 -/

section formats

variable (dst src : Addr) (p : List Byte)

theorem decodeFrame_untaggedFormat {et : Half} (hservice : et ≠ serviceTag) (hstandard : et ≠ standardTag) :
    decodeFrame (addrBytes dst ++ addrBytes src ++ halfBytes et ++ p)
      = .ok { dst := dst, src := src, outer := none, inner := none, etherType := et, payload := p } := by
  have h12 : fieldAt (addrBytes dst ++ addrBytes src ++ halfBytes et ++ p) 12 = et := append_bytes_of_half et
  rw [decodeFrame_untagged (by simp; omega) (by rwa [h12]) (by rwa [h12]), h12]
  rfl

theorem decodeFrame_singleTaggedFormat (w0 w1 : Byte) (et : Half) :
    decodeFrame (addrBytes dst ++ addrBytes src ++ [0x81, 0x00, w0, w1] ++ halfBytes et ++ p)
      = .ok { dst := dst, src := src, outer := none, inner := some (tagOf w0 w1), etherType := et, payload := p } := by
  have h16 : fieldAt (addrBytes dst ++ addrBytes src ++ [0x81, 0x00, w0, w1] ++ halfBytes et ++ p) 16 = et :=
    append_bytes_of_half et
  rw [decodeFrame_single (by simp; omega) ((fieldAt_of_drop rfl).trans standardTag_bytes), h16]
  rfl

theorem decodeFrame_doubleTaggedFormat (o0 o1 i0 i1 : Byte) (et : Half) :
    decodeFrame (addrBytes dst ++ addrBytes src ++ [0x88, 0xA8, o0, o1, 0x81, 0x00, i0, i1] ++ halfBytes et ++ p)
      = .ok { dst := dst, src := src, outer := some (tagOf o0 o1), inner := some (tagOf i0 i1), etherType := et,
              payload := p } := by
  have h20 : fieldAt (addrBytes dst ++ addrBytes src ++ [0x88, 0xA8, o0, o1, 0x81, 0x00, i0, i1] ++ halfBytes et ++ p)
      20 = et := append_bytes_of_half et
  rw [decodeFrame_double (by simp; omega) ((fieldAt_of_drop rfl).trans serviceTag_bytes)
    ((fieldAt_of_drop rfl).trans standardTag_bytes), h20]
  rfl

end formats

/-! ### The layout of an accepted record, read back -/

/-- The header of a layout, and after it the padded payload. -/
theorem layout_eq_padded (F : FrameRecord) : layout F
    = addrBytes F.dst ++ addrBytes F.src ++ (tagLayer 0x88A8 F.outer ++ tagLayer 0x8100 F.inner)
      ++ halfBytes F.etherType ++ (padded F).payload := by
  simp only [layout, padded, List.append_assoc]

theorem layout_of_untagged {F : FrameRecord} (houter : F.outer = none) (hinner : F.inner = none) :
    layout F = addrBytes F.dst ++ addrBytes F.src ++ halfBytes F.etherType ++ (padded F).payload := by
  rw [layout_eq_padded, houter, hinner]
  rfl

theorem vidInRange_iff (t : TagRecord) : vidInRange t = true ↔ t.vid.toNat ≤ 4095 := decide_eq_true_iff

/-- `accepted` as R179 and R181 say it: no outer tag alone, and identifiers that fit 12 bits. -/
theorem accepted_iff (F : FrameRecord) : accepted F = true ↔
    ¬(F.outer ≠ none ∧ F.inner = none) ∧ ∀ t, F.outer = some t ∨ F.inner = some t → t.vid.toNat ≤ 4095 := by
  rw [accepted, Bool.and_eq_true_iff, wellStacked, Bool.not_eq_true', ← Bool.not_eq_true, outerOnly_iff, vidsInRange,
    Bool.and_eq_true_iff, Option.all_eq_true, Option.all_eq_true]
  simp only [vidInRange_iff, or_imp, forall_and]

theorem decodeFrame_layout {F : FrameRecord} (hacc : accepted F = true)
    (htype : F.inner ≠ none ∨ (F.etherType ≠ 0x8100 ∧ F.etherType ≠ 0x88A8)) :
    decodeFrame (layout F) = .ok (padded F) := by
  obtain ⟨hstack, hvid⟩ := (accepted_iff F).mp hacc
  obtain ⟨dst, src, outer, inner, et, p⟩ := F
  rw [layout_eq_padded]
  cases inner with
  | none =>
    obtain rfl : outer = none := by simpa using hstack
    obtain ⟨hstandard, hservice⟩ := htype.resolve_left (· rfl)
    exact decodeFrame_untaggedFormat dst src _ hservice hstandard
  | some i =>
    have hi := tagOf_of_tciBytes (hvid i (.inr rfl))
    cases outer with
    | none =>
      refine (decodeFrame_singleTaggedFormat dst src _ _ _ et).trans ?_
      rw [hi]
      rfl
    | some o =>
      have ho := tagOf_of_tciBytes (hvid o (.inl rfl))
      refine (decodeFrame_doubleTaggedFormat dst src _ _ _ _ _ et).trans ?_
      rw [ho, hi]
      rfl

/-! ### Decode after the FCS check -/

theorem decodeFrameFCS_append (body : List Byte) {fcs : List Byte} (hlen : fcs.length = 4) :
    decodeFrameFCS (body ++ fcs)
      = if fcs = be32 (crc32 body) then decodeFrame body else .error .invalidChecksum := by
  rw [decodeFrameFCS, verifyFCS_append body hlen]
  split <;> rfl

theorem decodeFrameFCS_appendFCS (b : List Byte) : decodeFrameFCS (appendFCS b) = decodeFrame b :=
  (decodeFrameFCS_append b (length_be32 _)).trans (if_pos rfl)

theorem decodeFrameFCS_wordBytes (body : List Byte) (rx : Word) : decodeFrameFCS (body ++ wordBytes rx)
    = if crc32 body = rx then decodeFrame body else .error .invalidChecksum := by
  rw [← be32_eq_wordBytes, decodeFrameFCS_append body (length_be32 rx)]
  simp only [be32_injective.eq_iff, eq_comm]

theorem decodeFrameFCS_of_short {buf : List Byte} (h : buf.length < 4) :
    decodeFrameFCS buf = .error .truncatedFrame := by
  have hverify : verifyFCS buf = .error .truncatedFrame := if_pos h
  rw [decodeFrameFCS, hverify]
  rfl

/-- The body decoded by the FCS form is the buffer less its last 4 bytes (R125). -/
theorem decodeFrame_take_of_decodeFrameFCS {buf : List Byte} {F : FrameRecord} (h : decodeFrameFCS buf = .ok F) :
    decodeFrame (buf.take (buf.length - 4)) = .ok F := by
  obtain ⟨body, hv, hd⟩ := bind_eq_ok.mp h
  obtain ⟨-, herr⟩ | ⟨body', fcs, rfl, hlen, ⟨-, hok⟩ | ⟨-, herr⟩⟩ := verifyFCS_cases buf
  · rw [herr] at hv; cases hv
  · obtain rfl := Except.ok.inj (hok.symm.trans hv)
    simpa [hlen] using hd
  · rw [herr] at hv; cases hv

/-! ### What a decoded record satisfies -/

section decoded

variable {buf : List Byte} {f12 : Half} {hd : Header} {F : FrameRecord}

/-- The header read has the length of its tags, and all of it lies inside the buffer. -/
theorem hdr_of_readHeader (hlen : 14 ≤ buf.length) (h : readHeader buf f12 = .ok hd) :
    hd.hdr = 14 + 4 * (hd.outer.isSome.toNat + hd.inner.isSome.toNat) ∧ hd.hdr ≤ buf.length := by
  obtain ⟨-, hdouble⟩ | ⟨-, hsingle⟩ | ⟨-, -, rfl⟩ := readHeader_ok h
  · obtain ⟨outer, inner, et, -, -, -, het, rfl⟩ := readDouble_ok hdouble
    exact ⟨rfl, length_of_readHalf_ok het⟩
  · obtain ⟨inner, et, -, het, rfl⟩ := readSingle_ok hsingle
    exact ⟨rfl, length_of_readHalf_ok het⟩
  · exact ⟨rfl, hlen⟩

/-- A decoded record is made of the buffer's bytes: the addresses, and the payload after the whole header. -/
theorem decodeFrame_copies (h : decodeFrame buf = .ok F) : addrBytes F.dst = buf.take 6
    ∧ addrBytes F.src = (buf.drop 6).take 6 ∧ F.payload = buf.drop F.headerLength
    ∧ F.headerLength ≤ buf.length := by
  obtain ⟨hlen, dst, src, f12, hd, hdst, hsrc, -, hhd, rfl⟩ := decodeFrame_ok h
  obtain ⟨hhdr, hle⟩ := hdr_of_readHeader hlen hhd
  rw [memReadBytes_ok (by omega)] at hdst hsrc
  obtain rfl := Except.ok.inj hdst
  obtain rfl := Except.ok.inj hsrc
  rw [FrameRecord.headerLength, tagCount_eq, ← hhdr]
  exact ⟨addrBytes_addrOfBytes (by simp; omega), addrBytes_addrOfBytes (by simp; omega), rfl, hle⟩

theorem headerLength_cases (F : FrameRecord) :
    F.headerLength = 14 ∨ F.headerLength = 18 ∨ F.headerLength = 22 := by
  rw [FrameRecord.headerLength, tagCount_eq]
  cases F.outer.isSome <;> cases F.inner.isSome <;> decide

end decoded

/-! ### The two operations, given what the decode gives -/

section operations

variable {s : State} {buf : List Byte} {e : Err} {F : FrameRecord}

theorem exec_frameDecode_raises (ho : Presents s (.bytes buf)) (hcap : buf.length ≤ s.maxFrameBytes)
    (h : decodeFrame buf = .error e) : exec .frameDecode s = .next (s.deliver (errResponse e)) :=
  perform_raises ((bufferOperand_eq ho).trans (asBuffer_bytes hcap)) (by rw [h]; rfl)

theorem exec_frameDecode_returns (ho : Presents s (.bytes buf)) (hcap : buf.length ≤ s.maxFrameBytes)
    (h : decodeFrame buf = .ok F) : exec .frameDecode s = .next (s.deliver (okResponse (.frame F))) :=
  perform_returns ((bufferOperand_eq ho).trans (asBuffer_bytes hcap)) (map_eq_ok.mpr ⟨F, h, rfl⟩)
    ((payload_length_decodeFrame_le h).trans hcap)

theorem exec_frameDecodeFcs_raises (ho : Presents s (.bytes buf)) (hcap : buf.length ≤ s.maxFrameBytes)
    (h : decodeFrameFCS buf = .error e) : exec .frameDecodeFcs s = .next (s.deliver (errResponse e)) :=
  perform_raises ((bufferOperand_eq ho).trans (asBuffer_bytes hcap)) (by rw [h]; rfl)

theorem exec_frameDecodeFcs_returns (ho : Presents s (.bytes buf)) (hcap : buf.length ≤ s.maxFrameBytes)
    (h : decodeFrameFCS buf = .ok F) : exec .frameDecodeFcs s = .next (s.deliver (okResponse (.frame F))) :=
  perform_returns ((bufferOperand_eq ho).trans (asBuffer_bytes hcap)) (map_eq_ok.mpr ⟨F, h, rfl⟩)
    ((payload_length_decodeFrameFCS_le h).trans hcap)

end operations

/-! ### The claims -/

/-- Settles O38: the encoding is the layout, and the decoder reads every field of the layout back. -/
theorem decodeOfEncodeGivesPaddedFrame : Obligations.DecodeOfEncodeGivesPaddedFrame :=
  fun F hacc htype => ⟨layout F, encodeFrame_eq_layout hacc, decodeFrame_layout hacc htype⟩

/-- Settles O33: the decode of the untagged format, whose payload fits the capacity. -/
theorem frameDecodeAnswersUntaggedFrame : Obligations.FrameDecodeAnswersUntaggedFrame := by
  intro s dst src et p ho hcap hservice hstandard
  exact exec_frameDecode_returns ho (by simp; omega)
    (decodeFrame_untaggedFormat dst src p hservice hstandard)

/-- Settles O34: the decode of the single-tagged format, and of a buffer that ends inside its header. -/
theorem frameDecodeAnswersSingleTaggedFrame : Obligations.FrameDecodeAnswersSingleTaggedFrame := by
  refine ⟨fun s dst src w0 w1 et p ho hcap => ?_, fun s buf ho hcap hlen hshort h12 => ?_⟩
  · exact exec_frameDecode_returns ho (by simp; omega)
      (decodeFrame_singleTaggedFormat dst src p w0 w1 et)
  · exact exec_frameDecode_raises ho hcap (decodeFrame_single_truncated hlen hshort h12)

/-- Settles O35: the decode of the double-tagged format, and the errors of its reads in their order. -/
theorem frameDecodeAnswersDoubleTaggedFrame : Obligations.FrameDecodeAnswersDoubleTaggedFrame := by
  refine ⟨fun s dst src o0 o1 i0 i1 et p ho hcap => ?_, fun s buf ho hcap hlen h12 =>
    ⟨fun hshort => ?_, fun hfield h16 => ?_, fun hfield hshort h16 => ?_⟩⟩
  · exact exec_frameDecode_returns ho (by simp; omega)
      (decodeFrame_doubleTaggedFormat dst src p o0 o1 i0 i1 et)
  · exact exec_frameDecode_raises ho hcap (decodeFrame_double_truncated hlen hshort h12)
  · exact exec_frameDecode_raises ho hcap (decodeFrame_badStacking hfield h12 h16)
  · exact exec_frameDecode_raises ho hcap (decodeFrame_double_truncatedInner hfield hshort h12 h16)

/-- Settles O36: the FCS check decides between its errors and the decode of the body. -/
theorem frameDecodeFcsVerifiesThenDecodes : Obligations.FrameDecodeFcsVerifiesThenDecodes := by
  refine ⟨fun s buf ho hcap hshort => exec_frameDecodeFcs_raises ho hcap (decodeFrameFCS_of_short hshort),
    fun s body rx ho hfits => ?_⟩
  have hcap : (body ++ wordBytes rx).length ≤ s.maxFrameBytes := by simpa [wordBytes] using hfits
  have hdecode := decodeFrameFCS_wordBytes body rx
  refine ⟨fun hne => exec_frameDecodeFcs_raises ho hcap (hdecode.trans (if_neg hne)), fun heq => ?_⟩
  have hbody := hdecode.trans (if_pos heq)
  exact ⟨fun e he => exec_frameDecodeFcs_raises ho hcap (hbody.trans he),
    fun F hF => exec_frameDecodeFcs_returns ho hcap (hbody.trans hF)⟩

/-- Settles O37: either form decodes the body, and the record is accepted and copied from the body's bytes. -/
theorem decodedFrameIsWellFormed : Obligations.DecodedFrameIsWellFormed := by
  intro buf body F h
  have hbody : decodeFrame body = .ok F := by
    obtain ⟨hd, rfl⟩ | ⟨hfcs, rfl⟩ := h
    · exact hd
    · exact decodeFrame_take_of_decodeFrameFCS hfcs
  obtain ⟨hstack, hvid⟩ := (accepted_iff F).mp (accepted_of_decodeFrame hbody)
  obtain ⟨hdst, hsrc, hpayload, hle⟩ := decodeFrame_copies hbody
  refine ⟨hstack, hvid, hdst, hsrc, headerLength_cases F, hpayload, ?_⟩
  rw [hpayload, List.length_drop, Nat.add_sub_cancel' hle]

/-- Settles O39: the appended FCS verifies, so the body decoded is the plain encoding. -/
theorem fcsRoundTripHasSameOutcome : Obligations.FcsRoundTripHasSameOutcome :=
  fun _ b hb => ⟨appendFCS b, map_eq_ok.mpr ⟨b, hb, rfl⟩, decodeFrameFCS_appendFCS b⟩

/-- Settles O40: the encoding's field at offset 12 is the EtherType, and the payload's bytes stand where the decoder
reads a tag control field (14) and the field after it (16). -/
theorem untaggedDiscriminatorIsMisread : Obligations.UntaggedDiscriminatorIsMisread := by
  intro F p0 p1 p2 p3 p houter hinner hp
  have hacc : accepted F = true := (accepted_iff F).mpr (by simp [houter, hinner])
  have hlayout := layout_of_untagged houter hinner
  have hlen : 60 ≤ (layout F).length := by simp [hlayout, padded]; omega
  rw [hp] at hlayout
  have h12 : fieldAt (layout F) 12 = F.etherType := by rw [hlayout]; exact append_bytes_of_half _
  have h16 : fieldAt (layout F) 16 = p2 ++ p3 := by rw [hlayout]; rfl
  have h14 : tagAt (layout F) 14 = tagOf p0 p1 := by rw [hlayout]; rfl
  refine ⟨layout F, encodeFrame_eq_layout hacc, fun het => ?_, fun het hne => ?_, fun het heq => ?_⟩
  · rw [decodeFrame_single (by omega) (h12.trans het), h14, h16, hlayout, houter]
    rfl
  · exact decodeFrame_badStacking (by omega) (h12.trans het) (by rwa [h16])
  · exact ⟨_, decodeFrame_double (by omega) (h12.trans het) (h16.trans heq), congrArg some h14, Option.some_ne_none _⟩

/-- Settles O32: the length check comes before every read. -/
theorem frameDecodeOfShortBufferIsTruncated : Obligations.FrameDecodeOfShortBufferIsTruncated :=
  fun _ _ ho hcap hshort => exec_frameDecode_raises ho hcap (decodeFrame_of_short hshort)

end Sys2Proof.Proofs
end

section
/-! The claims of 60_exceptions.md: requests issued in turn on a channel are answered in order (R216), an operation
changes nothing but its channel (R215), each operation raises only its own errors (R201 to R204), and when a busy
channel performs its request. The lemmas before them say that a delivered response can be read back from the state,
which errors each part of the codec raises, and that the response to a request inside the interface is a function of the
request. -/

namespace Sys2Proof.Proofs

open Sys2Proof Sys2Proof.Machine Sys2Proof.Safety Sys2Proof.Laws

/-! ### The response delivered on the active channel -/

section deliver

variable {s t : State} {i : Instr} {c : Channel} {r r' : Response}

theorem operand_of_idle (h : s.request = none) : operand s = .error .noRequest := by
  simp [operand, h]

theorem exec_of_idle (i : Instr) (h : s.request = none) : exec i s = .refused .noRequest := by
  have hop := operand_of_idle h
  cases i with
  | tagPack => exact perform_refuses (by rw [tagOperand, hop]; rfl)
  | tagUnpack => exact perform_refuses (by rw [twoBytesOperand, hop]; rfl)
  | frameEncode | frameEncodeFcs => exact perform_refuses (by rw [frameOperand, hop]; rfl)
  | frameDecode | frameDecodeFcs => exact perform_refuses (by rw [bufferOperand, hop]; rfl)

/-- An operation that answers had a request in flight, so its channel exists. -/
theorem active_channel_of_exec_next (h : exec i s = .next t) : ∃ c, s.channels[s.active]? = some c := by
  cases hreq : s.request with
  | none => rw [exec_of_idle i hreq] at h; cases h
  | some req =>
    obtain ⟨c, hc, -⟩ := inFlightOn_eq_some.mp hreq
    exact ⟨c, hc⟩

/-- The response delivered is the last one on the active channel, so the next state determines it. -/
theorem deliver_inj (hc : s.channels[s.active]? = some c) (h : s.deliver r = s.deliver r') : r = r' := by
  have hself : some (c.answer r) = some (c.answer r') := by
    rw [← deliver_channel_self r hc, ← deliver_channel_self r' hc, h]
  simpa [Channel.answer] using hself

/-- The status codes of the errors are distinct (R76). -/
theorem errResponse_injective : Function.Injective errResponse := by
  intro e e'
  cases e <;> cases e' <;> decide

theorem okResponse_ne_errResponse (r : Result) (e : Err) : okResponse r ≠ errResponse e :=
  fun h => Option.some_ne_none r (congrArg Response.result h)

end deliver

/-! ### The errors of each part of the codec -/

/-- The computation raises no error outside `es`. -/
def RaisesOnly {α : Type} (es : List Err) (x : Except Err α) : Prop := ∀ e, x = .error e → e ∈ es

section raises

variable {α β : Type} {es : List Err}

theorem raisesOnly_ok (a : α) : RaisesOnly es (.ok a) := nofun

theorem raisesOnly_error {e : Err} (h : e ∈ es) : RaisesOnly es (.error e : Except Err α) := by
  rintro _ ⟨⟩
  exact h

theorem raisesOnly_bind {x : Except Err α} {f : α → Except Err β} (hx : RaisesOnly es x)
    (hf : ∀ a, RaisesOnly es (f a)) : RaisesOnly es (x >>= f) := by
  cases x with
  | error e => exact raisesOnly_error (hx e rfl)
  | ok a => exact hf a

theorem raisesOnly_map {x : Except Err α} (f : α → β) (hx : RaisesOnly es x) : RaisesOnly es (x.map f) := by
  cases x with
  | error e => exact raisesOnly_error (hx e rfl)
  | ok a => exact raisesOnly_ok (f a)

section encode

variable (hvid : Err.invalidVlanId ∈ es)
include hvid

theorem raisesOnly_packTCI (t : TagRecord) : RaisesOnly es (packTCI t) := by
  obtain ⟨-, w, hw, -⟩ | ⟨-, herr⟩ := packTCI_cases t
  · exact hw ▸ raisesOnly_ok w
  · exact herr ▸ raisesOnly_error hvid

theorem raisesOnly_packPresent (t : Option TagRecord) : RaisesOnly es (packPresent t) := by
  cases t with
  | none => exact raisesOnly_ok []
  | some t => exact raisesOnly_packTCI hvid t

theorem raisesOnly_encodeFrame (hstack : Err.invalidVlanStacking ∈ es) (F : FrameRecord) :
    RaisesOnly es (encodeFrame F) := by
  by_cases h : F.outer ≠ none ∧ F.inner = none
  · exact encodeFrame_of_outerOnly h ▸ raisesOnly_error hstack
  · rw [encodeFrame_of_not_outerOnly h]
    exact raisesOnly_bind (raisesOnly_packPresent hvid _) fun _ =>
      raisesOnly_bind (raisesOnly_packPresent hvid _) fun _ => raisesOnly_ok _

theorem raisesOnly_encodeFrameFCS (hstack : Err.invalidVlanStacking ∈ es) (F : FrameRecord) :
    RaisesOnly es (encodeFrameFCS F) :=
  raisesOnly_map _ (raisesOnly_encodeFrame hvid hstack F)

end encode

section decode

variable (htrunc : Err.truncatedFrame ∈ es)
include htrunc

theorem raisesOnly_memReadBytes (buf : List Byte) (off n : Nat) : RaisesOnly es (memReadBytes buf off n) := by
  obtain ⟨-, w, hw, -⟩ | ⟨-, herr⟩ := memReadBytes_cases buf off n
  · exact hw ▸ raisesOnly_ok w
  · exact herr ▸ raisesOnly_error htrunc

theorem raisesOnly_readHalf (buf : List Byte) (off : Nat) : RaisesOnly es (readHalf buf off) :=
  raisesOnly_map _ (raisesOnly_map _ (raisesOnly_memReadBytes htrunc buf off 2))

theorem raisesOnly_readTag (buf : List Byte) (off : Nat) : RaisesOnly es (readTag buf off) :=
  raisesOnly_map _ (raisesOnly_memReadBytes htrunc buf off 2)

theorem raisesOnly_readSingle (buf : List Byte) : RaisesOnly es (readSingle buf) :=
  raisesOnly_bind (raisesOnly_readTag htrunc buf 14) fun _ =>
    raisesOnly_bind (raisesOnly_readHalf htrunc buf 16) fun _ => raisesOnly_ok _

theorem raisesOnly_readDouble (hstack : Err.invalidVlanStacking ∈ es) (buf : List Byte) :
    RaisesOnly es (readDouble buf) := by
  refine raisesOnly_bind (raisesOnly_readTag htrunc buf 14) fun _ =>
    raisesOnly_bind (raisesOnly_readHalf htrunc buf 16) fun _ => ?_
  split
  · exact raisesOnly_error hstack
  · exact raisesOnly_bind (raisesOnly_readTag htrunc buf 18) fun _ =>
      raisesOnly_bind (raisesOnly_readHalf htrunc buf 20) fun _ => raisesOnly_ok _

theorem raisesOnly_readHeader (hstack : Err.invalidVlanStacking ∈ es) (buf : List Byte) (f12 : Half) :
    RaisesOnly es (readHeader buf f12) := by
  unfold readHeader
  split
  · exact raisesOnly_readDouble htrunc hstack buf
  · split
    · exact raisesOnly_readSingle htrunc buf
    · exact raisesOnly_ok _

theorem raisesOnly_decodeFrame (hstack : Err.invalidVlanStacking ∈ es) (buf : List Byte) :
    RaisesOnly es (decodeFrame buf) := by
  obtain hshort | hlen := lt_or_ge buf.length 14
  · exact decodeFrame_of_short hshort ▸ raisesOnly_error htrunc
  · rw [decodeFrame_eq_readHeader hlen]
    exact raisesOnly_map _ (raisesOnly_readHeader htrunc hstack buf _)

theorem raisesOnly_verifyFCS (hsum : Err.invalidChecksum ∈ es) (buf : List Byte) : RaisesOnly es (verifyFCS buf) := by
  obtain ⟨-, herr⟩ | ⟨body, fcs, -, -, ⟨-, hok⟩ | ⟨-, herr⟩⟩ := verifyFCS_cases buf
  · exact herr ▸ raisesOnly_error htrunc
  · exact hok ▸ raisesOnly_ok body
  · exact herr ▸ raisesOnly_error hsum

theorem raisesOnly_decodeFrameFCS (hsum : Err.invalidChecksum ∈ es) (hstack : Err.invalidVlanStacking ∈ es)
    (buf : List Byte) : RaisesOnly es (decodeFrameFCS buf) :=
  raisesOnly_bind (raisesOnly_verifyFCS htrunc hsum buf) (raisesOnly_decodeFrame htrunc hstack)

end decode

end raises

/-- Every meaning is `perform` of a computation that raises only the operation's errors. -/
theorem exec_is_perform_of_raisesOnly (i : Instr) (s : State) :
    ∃ (α : Type) (operand : Except Refusal α) (op : α → Except Err Result),
      (∀ a, RaisesOnly (mayRaise i) (op a)) ∧ exec i s = perform operand op s := by
  cases i with
  | tagPack => exact ⟨_, _, _, fun t => raisesOnly_map _ (raisesOnly_packTCI (by decide) t), rfl⟩
  | tagUnpack => exact ⟨_, _, _, fun _ => raisesOnly_ok _, rfl⟩
  | frameEncode =>
    exact ⟨_, _, _, fun F => raisesOnly_map _ (raisesOnly_encodeFrame (by decide) (by decide) F), rfl⟩
  | frameEncodeFcs =>
    exact ⟨_, _, _, fun F => raisesOnly_map _ (raisesOnly_encodeFrameFCS (by decide) (by decide) F), rfl⟩
  | frameDecode =>
    exact ⟨_, _, _, fun b => raisesOnly_map _ (raisesOnly_decodeFrame (by decide) (by decide) b), rfl⟩
  | frameDecodeFcs =>
    exact ⟨_, _, _, fun b => raisesOnly_map _ (raisesOnly_decodeFrameFCS (by decide) (by decide) (by decide) b), rfl⟩

/-! ### The response to a request -/

/-- A unit of one channel, right after reset, that has captured the request. -/
def soloUnit (maxBytes : Nat) (req : Request) : State := (State.resetWith maxBytes 1).accept 0 req []

/-- The response to a request: what a unit of one channel returns for it right after reset. Where that unit refuses the
request there is none, and the value is not used. -/
def responseTo (maxBytes : Nat) (req : Request) : Response :=
  match runRequest (soloUnit maxBytes req) with
  | .next t => (t.channels.flatMap Channel.responses).headD (errResponse .illegalOperation)
  | .fault _ => errResponse .illegalOperation
  | .refused _ => errResponse .illegalOperation

theorem responseTo_of_runRequest {m : Nat} {req : Request} {r : Response}
    (h : runRequest (soloUnit m req) = .next ((soloUnit m req).deliver r)) : responseTo m req = r := by
  rw [responseTo, h]
  rfl

section responseTo

variable {s : State} {k : Nat} {c : Channel} {req : Request} {ts : List Turn}

/-- Whichever state a request inside the interface is performed in, the response is the one of the request alone. -/
theorem runRequest_eq_deliver_responseTo (hreq : s.request = some req)
    (hin : withinInterface s.maxFrameBytes req = true) :
    runRequest s = .next (s.deliver (responseTo s.maxFrameBytes req)) := by
  have hagree := runRequest_agree (s := s) (t := soloUnit s.maxFrameBytes req) hreq rfl
  obtain ⟨r, hrun, hsolo⟩ | ⟨x, hrun, -⟩ := hagree
  · rw [responseTo_of_runRequest hsolo, hrun]
  · obtain ⟨r, hnext⟩ := runRequest_answers hreq hin
    rw [hrun] at hnext
    cases hnext

/-- Capture of a request and then its response leave one response more on the channel. -/
theorem modify_accept_answer {cs : List Channel} (hc : cs[k]? = some c) (req : Request) (r : Response) :
    (cs.modify k fun d => { d with inFlight := some req }).modify k (Channel.answer r)
      = cs.set k { inFlight := none, responses := c.responses ++ [r] } := by
  rw [List.modify_modify_eq, List.modify_eq_set_getElem?, hc]
  rfl

/-- One request issued on an idle channel and then run (R59, R216): two steps, and its response is on the channel. -/
theorem runSteps_issue_run (n : Nat) (hc : s.channels[k]? = some c) (hidle : c.inFlight = none)
    (hin : withinInterface s.maxFrameBytes req = true) (hturns : s.turns = .issue k req :: .run k :: ts) :
    runSteps (n + 2) s = runSteps n { s with
      channels := s.channels.set k
        { inFlight := none, responses := c.responses ++ [responseTo s.maxFrameBytes req] },
      turns := ts, active := k } := by
  have hissue : step s = .next (s.accept k req (.run k :: ts)) :=
    step_of_accept (plan_issue_of_idle hturns (lt_length_of_channel hc) ((inFlightOn_of_channel hc).trans hidle))
  have hbusy : (s.accept k req (.run k :: ts)).inFlightOn k = some req :=
    inFlightOn_of_channel (c := { c with inFlight := some req }) (by simp [hc])
  have hrun := (step_of_perform (plan_run_of_busy rfl hbusy)).trans
    (runRequest_eq_deliver_responseTo (s := (s.accept k req (.run k :: ts)).select k ts) hbusy hin)
  rw [runSteps_succ _ hissue, runSteps_succ _ hrun, ← modify_accept_answer hc req]
  rfl

/-- Requests issued one after the other on an idle channel, each run before the next, are answered in that order. -/
theorem runSteps_issue_run_list (reqs : List Request) (hc : s.channels[k]? = some c) (hidle : c.inFlight = none)
    (hin : ∀ req ∈ reqs, withinInterface s.maxFrameBytes req = true)
    (hturns : s.turns = reqs.flatMap (fun req => [.issue k req, .run k]) ++ ts) :
    ∃ t, runSteps (2 * reqs.length) s = .next t ∧ t.turns = ts
      ∧ t.channels = s.channels.set k
          { inFlight := none, responses := c.responses ++ reqs.map (responseTo s.maxFrameBytes) } := by
  induction reqs generalizing s c with
  | nil =>
    obtain ⟨hk, rfl⟩ := List.getElem?_eq_some_iff.mp hc
    refine ⟨s, rfl, hturns, ?_⟩
    rw [List.map_nil, List.append_nil, ← hidle]
    exact (List.set_getElem_self hk).symm
  | cons req reqs ih =>
    obtain ⟨hreq, hreqs⟩ := List.forall_mem_cons.mp hin
    have hhead := runSteps_issue_run (2 * reqs.length) hc hidle hreq hturns
    obtain ⟨t, hrun, hts, hchannels⟩ := ih
      (s := { s with
        channels := s.channels.set k
          { inFlight := none, responses := c.responses ++ [responseTo s.maxFrameBytes req] },
        turns := reqs.flatMap (fun req => [.issue k req, .run k]) ++ ts, active := k })
      (List.getElem?_set_self (lt_length_of_channel hc)) rfl hreqs rfl
    exact ⟨t, hhead.trans hrun, hts, by simpa using hchannels⟩

end responseTo

/-! ### The claims -/

/-- Settles O41: the function is `responseTo`, and each request takes one step to capture and one to answer. -/
theorem requestsAnsweredInIssueOrder : Obligations.RequestsAnsweredInIssueOrder :=
  ⟨responseTo, fun reqs _ _ _ _ => runSteps_issue_run_list reqs⟩

/-- Settles O14: an operation that answers delivers one response on the active channel, which exists. -/
theorem execChangesOnlyActiveChannel : Obligations.ExecChangesOnlyActiveChannel := by
  intro i s t h
  obtain ⟨c, hc⟩ := active_channel_of_exec_next h
  obtain ⟨r, rfl⟩ := exec_next h
  exact ⟨rfl, rfl, rfl, List.length_modify .., fun j hj => deliver_channel_ne r hj, c, r, hc, deliver_channel_self r hc⟩

/-- Settles O16: the response delivered determines the error, and the operation's computation raised it. -/
theorem operationsRaiseOnlyTheirErrors : Obligations.OperationsRaiseOnlyTheirErrors := by
  intro i s e h
  obtain ⟨c, hc⟩ := active_channel_of_exec_next h
  obtain ⟨α, operand, op, honly, hi⟩ := exec_is_perform_of_raisesOnly i s
  rw [hi] at h
  obtain ⟨x, -, hp⟩ | ⟨a, e', -, he, hp⟩ | ⟨a, r, -, -, -, hp⟩ | ⟨a, r, -, -, -, hp⟩ := perform_cases operand op s <;>
    rw [hp] at h
  · cases h
  · obtain rfl := errResponse_injective (deliver_inj hc (Host.Outcome.next.inj h))
    exact honly a e' he
  · exact absurd (deliver_inj hc (Host.Outcome.next.inj h)) (okResponse_ne_errResponse r e)
  · cases h

/-- Settles O6: the plan at each kind of turn, and the lowest-numbered busy channel when no turn is left. -/
theorem planPerformsBusyChannels : Obligations.PlanPerformsBusyChannels :=
  fun _ _ _ hbusy => ⟨fun _ hturns => plan_run_of_busy hturns hbusy, fun _ _ hturns => plan_issue_of_busy hturns hbusy,
    fun hturns hidle => plan_of_firstBusy hturns (firstBusy_eq_some hbusy hidle)⟩

end Sys2Proof.Proofs
end

section
/-! The claims of 70_reset_and_hazards.md: reset abandons every request in progress (R240, R241) and its state meets the
invariant, and with no turn left every request in flight is answered, one a step (R245). The lemmas before them say what
a channel is once its request is answered, and that each step brings one busy channel there. -/

namespace Sys2Proof.Proofs

open Sys2Proof Sys2Proof.Machine Sys2Proof.Safety Sys2Proof.Laws

/-! ### A channel once its request is answered -/

section settle

variable {s : State} {m k n : Nat} {c : Channel} {req : Request}

/-- The channel once the request it has in flight, if any, is answered. -/
def settle (m : Nat) (c : Channel) : Channel :=
  match c.inFlight with
  | none => c
  | some req => c.answer (responseTo m req)

theorem settle_of_idle (h : c.inFlight = none) : settle m c = c := by
  simp [settle, h]

theorem settle_of_busy (h : c.inFlight = some req) : settle m c = c.answer (responseTo m req) := by
  simp [settle, h]

@[simp] theorem inFlight_settle (m : Nat) (c : Channel) : (settle m c).inFlight = none := by
  cases h : c.inFlight with
  | none => rw [settle_of_idle h, h]
  | some req => rw [settle_of_busy h, answer_inFlight]

@[simp] theorem settle_settle (m : Nat) (c : Channel) : settle m (settle m c) = settle m c :=
  settle_of_idle (inFlight_settle m c)

/-- Settling one channel first makes no difference to settling them all. -/
theorem map_settle_modify (m k : Nat) (cs : List Channel) :
    (cs.modify k (settle m)).map (settle m) = cs.map (settle m) := by
  refine List.ext_getElem? fun j => ?_
  by_cases hj : k = j <;> simp [hj, Function.comp_def]

/-! ### With no turn left -/

/-- Every request in flight lies inside the interface. -/
def AllWithinInterface (s : State) : Prop :=
  ∀ c ∈ s.channels, ∀ req, c.inFlight = some req → withinInterface s.maxFrameBytes req = true

/-- The state after a step with no turn left that answers the request on channel `k`. -/
def settleChannel (k : Nat) (s : State) : State :=
  { s with channels := s.channels.modify k (settle s.maxFrameBytes), turns := [], active := k }

theorem exists_firstBusy (h : 0 < busyCount s) : ∃ k, firstBusy s = some k := by
  obtain ⟨c, hc, hbusy⟩ := List.countP_pos_iff.mp h
  refine Option.isSome_iff_exists.mp ?_
  rw [firstBusy, List.findIdx?_isSome]
  exact List.any_eq_true.mpr ⟨c, hc, hbusy⟩

theorem map_settle_of_busyCount_eq_zero (h : busyCount s = 0) : s.channels.map (settle m) = s.channels := by
  refine (List.map_congr_left fun c hc => settle_of_idle ?_).trans (List.map_id' s.channels)
  simpa using List.countP_eq_zero.mp h c hc

/-- The lowest-numbered busy channel answers: a request inside the interface has a response of its own. -/
theorem step_of_firstBusy (hturns : s.turns = []) (hin : AllWithinInterface s) (hbusy : firstBusy s = some k) :
    step s = .next (settleChannel k s) := by
  obtain ⟨req, hreq⟩ := inFlightOn_of_firstBusy hbusy
  obtain ⟨c, hc, hflight⟩ := inFlightOn_eq_some.mp hreq
  have hstep := (step_of_perform (plan_of_firstBusy hturns hbusy)).trans
    (runRequest_eq_deliver_responseTo (s := s.select k []) hreq (hin c (List.mem_of_getElem? hc) req hflight))
  have hset : s.channels.modify k (Channel.answer (responseTo s.maxFrameBytes req))
      = s.channels.modify k (settle s.maxFrameBytes) := by
    rw [List.modify_eq_set_getElem?, List.modify_eq_set_getElem?, hc]
    exact congrArg (s.channels.set k) (settle_of_busy hflight).symm
  rw [hstep, settleChannel, ← hset]
  rfl

theorem allWithinInterface_settleChannel (hin : AllWithinInterface s) (k : Nat) :
    AllWithinInterface (settleChannel k s) := by
  intro c hc req hreq
  obtain ⟨d, hd, rfl | rfl⟩ := mem_modify hc
  · exact hin c hd req hreq
  · simp at hreq

theorem busyCount_settleChannel (hbusy : firstBusy s = some k) : busyCount (settleChannel k s) + 1 = busyCount s := by
  obtain ⟨hk, hflight, -⟩ := List.findIdx?_eq_some_iff_getElem.mp hbusy
  have hpos : 0 < busyCount s := List.countP_pos_iff.mpr ⟨_, List.getElem_mem hk, hflight⟩
  have hcount : busyCount (settleChannel k s) = busyCount s - 1 := by
    simp [busyCount, settleChannel, List.modify_eq_set_getElem?, hk, List.countP_set, hflight]
  omega

/-- As many steps as there are busy channels settle every channel, by induction on how many are busy. -/
theorem runSteps_busyCount (hn : busyCount s = n) (hturns : s.turns = []) (hin : AllWithinInterface s) :
    ∃ t, runSteps n s = .next t ∧ t.turns = [] ∧ t.channels = s.channels.map (settle s.maxFrameBytes) := by
  induction n generalizing s with
  | zero => exact ⟨s, rfl, hturns, (map_settle_of_busyCount_eq_zero hn).symm⟩
  | succ n ih =>
    obtain ⟨k, hk⟩ := exists_firstBusy (hn.symm ▸ n.succ_pos : 0 < busyCount s)
    have hcount : busyCount (settleChannel k s) = n := Nat.succ_injective ((busyCount_settleChannel hk).trans hn)
    obtain ⟨t, hrun, hts, hchannels⟩ := ih hcount rfl (allWithinInterface_settleChannel hin k)
    exact ⟨t, (runSteps_succ n (step_of_firstBusy hturns hin hk)).trans hrun, hts,
      hchannels.trans (map_settle_modify ..)⟩

end settle

/-! ### The state after reset -/

/-- No response has been returned after reset, so none is illegal. -/
theorem legalState_resetWith (maxBytes : Nat) {instances : Nat} (h : 1 ≤ instances) :
    LegalState (State.resetWith maxBytes instances) := by
  refine ⟨by simpa using h, fun c hc r hr => ?_⟩
  obtain rfl : c = Channel.idle := List.eq_of_mem_replicate hc
  cases hr

/-! ### The claims -/

/-- Settles O43: each step settles one busy channel, and a settled channel has one response more. -/
theorem requestsInFlightAreAllAnswered : Obligations.RequestsInFlightAreAllAnswered := by
  intro s hturns hin
  obtain ⟨t, hrun, hts, hchannels⟩ := runSteps_busyCount rfl hturns hin
  refine ⟨t, hrun, hts, fun k c hc => ?_⟩
  have hk : t.channels[k]? = some (settle s.maxFrameBytes c) := by
    rw [hchannels, List.getElem?_map, hc, Option.map_some]
  rw [hk]
  refine ⟨fun hidle => by rw [settle_of_idle hidle], fun hbusy => ?_⟩
  obtain ⟨req, hreq⟩ := Option.ne_none_iff_exists'.mp hbusy
  exact ⟨_, congrArg some (settle_of_busy hreq)⟩

/-- Settles O9: the step asserts reset, which empties what every channel has in flight and keeps its responses. -/
theorem resetAbandonsRequestsInProgress : Obligations.ResetAbandonsRequestsInProgress := by
  intro s rest hturns
  exact ⟨_, step_of_reset (plan_reset hturns), rfl, rfl, List.length_map .., fun k c hc => by simp [hc]⟩

/-- Settles O12: `State.reset` has one channel, and every reset state with a channel meets the invariant. -/
theorem legalAfterReset : Obligations.LegalAfterReset :=
  ⟨legalState_resetWith _ le_rfl, fun maxBytes _ => legalState_resetWith maxBytes⟩

end Sys2Proof.Proofs
end
